-- ==== Sys2Proof/Word.lean ====
section
/-! DEFINITION. Word.lean: the one access width of the register interface (spec 20_memory.md R68) and the
shortest helpers on naturals (00_scope.md R8, R9). -/

namespace Sys2Proof

/-- A 32-bit word: the only width of a host access (20_memory.md R68) and of a command (30_encoding.md R100). -/
abbrev Word := BitVec 32

/-- A byte offset of a host transaction: a natural below `2^16` (20_memory.md R61, R62). -/
abbrev Offset := BitVec 16

end Sys2Proof
end

