-- ==== Sys2Proof/Config.lean ====
section
/-! DEFINITION. Config.lean: the parameters of spec 00_scope.md R6, R7 and the free values. An opaque constant has no
body: nothing can be proved of the value it takes, so a claim about a run holds whatever it is. -/

namespace Sys2Proof.Config

/-- R6: the default operand width, "The default is `W = 1024`". -/
def defaultWidth : Nat := 1024

/-- R6: the legal operand widths, a multiple of 32 with `32 <= W <= 32768`. -/
abbrev LegalWidth (w : Nat) : Prop := w % 32 = 0 ∧ 32 ≤ w ∧ w ≤ 32768

/-- R7 `ROUNDS_RESET`: "Default `rounds = 10`". -/
def roundsReset : Word := 10

/-- R7 `WIN`: the size in bytes of each wide-register window. -/
def windowBytes : Nat := 0x1000

/-- FREE VALUE (log 5). What the witness source answers to the draw of this number when no answer is lined up
(42_millerrabin.md R176: "the answer is a free input"); `Machine.toWitness` brings it into `[2, n - 2]`. -/
opaque freeWitness : Nat → Nat

/-- FREE VALUE (log 7). What a scratch register holds after a completion or a reset (10_state.md R38, "any value"):
`freeScratch k q` for the `k`-th time and the `q`-th scratch register. -/
opaque freeScratch : Nat → Nat → Nat

end Sys2Proof.Config
end

