-- ==== Sys2Proof/Syntax.lean ====
section
/-! DEFINITION. Syntax.lean: the commands of the block, one constructor per row of spec/opcode_table.json
(30_encoding.md R104, R111). -/

namespace Sys2Proof

/-- The five commands. A command carries no operand: every operand is implicit (30_encoding.md R103). -/
inductive Instr where
  /-- MODMUL (40_modmul.md R131). -/
  | modmul
  /-- MODEXP (41_modexp.md R152). -/
  | modexp
  /-- MODEXP.C, the range-checked form (41_modexp.md R153). -/
  | modexpC
  /-- MRTEST (42_millerrabin.md R178). -/
  | mrtest
  /-- MRWIT (42_millerrabin.md R179). -/
  | mrwit
  deriving DecidableEq, Repr

end Sys2Proof
end

