-- ==== Sys2Proof/WellFormed.lean ====
section
/-! DEFINITION. WellFormed.lean: the fields of a command word (30_encoding.md R101) and the checks that make a word
legal (R104, R105). A command has no operand, so every check is a check of its word's fields. -/

namespace Sys2Proof

/-- R101: the three fields of format `CMD`, a word being `{RSV, CHK, OP}`. -/
structure CmdFields where
  rsv : BitVec 27
  chk : BitVec 1
  op  : BitVec 4
  deriving DecidableEq, Repr

/-- R101: "31:5 RSV reserved, must be 0". -/
def CmdFields.rsvZero (f : CmdFields) : Bool := f.rsv == 0

/-- R102: OP values 1 to 4 name a unit; 0 is illegal and 5 to 15 are reserved. -/
def CmdFields.opDefined (f : CmdFields) : Bool := f.op == 1 || f.op == 2 || f.op == 3 || f.op == 4

/-- R101: CHK is "legal only with `OP = 2`". -/
def CmdFields.chkAllowed (f : CmdFields) : Bool := f.chk == 0 || f.op == 2

/-- The fields of a legal word: all three checks. -/
def CmdFields.wellFormed (f : CmdFields) : Bool := f.rsvZero && f.opDefined && f.chkAllowed

/-- The fields each command is written with (R102, R104). -/
def Instr.fields : Instr → CmdFields
  | .modmul  => ⟨0, 0, 1⟩
  | .modexp  => ⟨0, 0, 2⟩
  | .modexpC => ⟨0, 1, 2⟩
  | .mrtest  => ⟨0, 0, 3⟩
  | .mrwit   => ⟨0, 0, 4⟩

/-- An instruction is well formed when its word's fields are. -/
def Instr.wellFormed (i : Instr) : Bool := i.fields.wellFormed

end Sys2Proof
end

