-- ==== Sys2Proof/Decode.lean ====
section
/-! DEFINITION. Decode.lean: the decoder, total on 32-bit words and rejecting by name (30_encoding.md R105: "it maps
every 32-bit word to one of the five commands or to `illegal`"), and the encoder. -/

namespace Sys2Proof

/-- Which field makes a word illegal (R105). Every one of them completes with `ERR_OPCODE`. -/
inductive DecodeError where
  /-- "any bit of `RSV` set". -/
  | reservedBits
  /-- "`OP = 0`" or "`OP >= 5`". -/
  | undefinedOp
  /-- "`CHK = 1` with `OP != 2`". -/
  | checkNotAllowed
  deriving DecidableEq, Repr

/-- R101: the fields of a word. -/
def fieldsOf (w : Word) : CmdFields :=
  { rsv := w.extractLsb' 5 27, chk := w.extractLsb' 4 1, op := w.extractLsb' 0 4 }

/-- R101: the word of given fields. -/
def wordOf (f : CmdFields) : Word := f.rsv ++ f.chk ++ f.op

/-- R102, R104: the command of an operation code and a check bit. -/
def instrOf (chk : BitVec 1) (op : BitVec 4) : Except DecodeError Instr :=
  if op = 1 then (if chk = 0 then .ok .modmul else .error .checkNotAllowed)
  else if op = 2 then (if chk = 0 then .ok .modexp else .ok .modexpC)
  else if op = 3 then (if chk = 0 then .ok .mrtest else .error .checkNotAllowed)
  else if op = 4 then (if chk = 0 then .ok .mrwit else .error .checkNotAllowed)
  else .error .undefinedOp

/-- The decoder (R104, R105). -/
def decode (w : Word) : Except DecodeError Instr :=
  let f := fieldsOf w
  if f.rsv = 0 then instrOf f.chk f.op else .error .reservedBits

/-- The encoder: the word of a command, from its fields (R101, R102). -/
def encode (i : Instr) : Word := wordOf i.fields

/-- One row of the opcode map (R104). -/
structure OpcodeRow where
  instr   : Instr
  pattern : Word
  mask    : Word
  deriving DecidableEq, Repr

/-- R104: the opcode map. Every mask is all ones. -/
def opcodeMap : List OpcodeRow :=
  [ ⟨.modmul,  0x00000001#32, 0xFFFFFFFF#32⟩,
    ⟨.modexp,  0x00000002#32, 0xFFFFFFFF#32⟩,
    ⟨.modexpC, 0x00000012#32, 0xFFFFFFFF#32⟩,
    ⟨.mrtest,  0x00000003#32, 0xFFFFFFFF#32⟩,
    ⟨.mrwit,   0x00000004#32, 0xFFFFFFFF#32⟩ ]

/-- R104: a word matches a row when its masked bits are the pattern. -/
def OpcodeRow.isHit (row : OpcodeRow) (w : Word) : Bool := w &&& row.mask == row.pattern

/-- R104: `Legal(c)`, the word is one of the five of the map. -/
def legal (w : Word) : Bool := opcodeMap.any (fun row => row.isHit w)

/-- The instruction the decoder reads from a word given as the opcode table numbers its bits. A row has 32 bits, one
command word (R100); more bits than that are no command. -/
def decodeTableWord (nbits w : Nat) : Option Instr :=
  if w % 2 ^ nbits < 2 ^ 32 then (decode (BitVec.ofNat 32 (w % 2 ^ nbits))).toOption else none

end Sys2Proof
end

