-- ==== Sys2Proof/Machine/State.lean ====
section
/-! DEFINITION. Machine/State.lean: every piece of state the spec gives the block (10_state.md), the environment's
side of it (host, witness source), the reasons a step can stop, and reset (10_state.md R45). -/

namespace Sys2Proof.Machine

/-- The wide registers (10_state.md R20). -/
inductive Wide where
  | A
  | B
  | N
  | R
  deriving DecidableEq, Repr

/-- The registers of the address map (20_memory.md R64): `word q i` is word `i` of wide register `q`. -/
inductive Reg where
  | cmd
  | status
  | ctrl
  | rounds
  | width
  | word (q : Wide) (i : Nat)
  deriving DecidableEq, Repr

/-- The response of a bus transaction (20_memory.md R61, R62, R63). -/
inductive Resp where
  | ok
  | error
  deriving DecidableEq, Repr

/-- The errors a command ends with (60_exceptions.md R241). -/
inductive ErrCode where
  | range
  | modulus
  | opcode
  | witness
  deriving DecidableEq, Repr

/-- What evaluating a command gives (10_state.md R40): a value for R, a verdict for PRIME, or an error. -/
inductive ExecOut where
  | result (v : Nat)
  | verdict (p : Bool)
  | err (c : ErrCode)
  deriving DecidableEq, Repr

/-- The sequencer's position inside a command (10_state.md R27, 42_millerrabin.md R182): the phases of R182, and
idle when no command is pending. -/
inductive Phase where
  | idle
  | pre
  | dec
  | rnd
  | exp
  | cmp
  | sqr
  | fin (out : ExecOut)
  deriving DecidableEq, Repr

/-- STATUS (10_state.md R25). Reserved bits have no storage. -/
structure Status where
  busy    : Bool
  done    : Bool
  err     : Bool
  prime   : Bool
  busyErr : Bool
  errCode : BitVec 4
  deriving DecidableEq, Repr

/-- CTRL (10_state.md R28). SRST is write-only and reserved bits read 0: no storage. -/
structure Ctrl where
  ie : Bool
  deriving DecidableEq, Repr

/-- The hidden scratch registers (10_state.md R38) and the sequencer's position (R27). `nPrime` and `rr` are the
Montgomery constants `n'` and `RR` (40_modmul.md R135). -/
structure Scratch where
  x      : Nat
  d      : Nat
  wit    : Nat
  nPrime : Nat
  rr     : Nat
  s      : Nat
  k      : Nat
  i      : Nat
  j      : Nat
  phase  : Phase
  deriving DecidableEq, Repr

/-- What is still to happen at the block's edge, in order (20_memory.md R60, R80): the host's script statements
(30_encoding.md R108), the reset input (70_reset_and_hazards.md R270), and the places where a completion falls. -/
inductive Event where
  /-- `WR32 off, v`. -/
  | write (off : Offset) (v : Word)
  /-- `WR32 off, t`, with `t` the script's last-read value (R109, MOVRA). -/
  | writeLast (off : Offset)
  /-- `RD32 off`. -/
  | read (off : Offset)
  /-- `WAIT`. -/
  | wait
  /-- `EXPECT v`: `v` is a natural of any size, so a value no word holds is expected in vain. -/
  | expect (v : Nat)
  /-- The reset input (R270). -/
  | reset
  /-- The engine's completion falls here, if it is enabled (R80). -/
  | complete
  deriving DecidableEq, Repr

/-- The environment's side, the model's own fields: what the host will do and what it last saw (log 2, log 14), what
the witness source will answer (log 5), and how many free values were taken (log 5, log 7). -/
structure Env where
  schedule : List Event
  last     : Word
  resp     : Resp
  failed   : Bool
  answers  : List Nat
  drawn    : Nat
  fills    : Nat
  deriving DecidableEq, Repr

/-- The machine. A wide register holds a natural below `2 ^ width` (10_state.md R20, 00_scope.md R8). -/
structure State where
  width   : Nat
  a       : Nat
  b       : Nat
  n       : Nat
  r       : Nat
  cmd     : Word
  status  : Status
  ctrl    : Ctrl
  rounds  : Word
  scratch : Scratch
  env     : Env
  deriving DecidableEq, Repr

/-- No step of this block ends in a fault: "There is no third outcome in hardware: every command word, legal or not,
completes" (00_scope.md R14). Nothing raises one; safe. -/
inductive Fault where
  deriving DecidableEq, Repr

/-- The reasons a step can be refused. -/
inductive Refusal where
  /-- Raised by `exec` alone, for a command that has no meaning in the model yet; safe. No arm raises it now. -/
  | notModelled (mnemonic : String)
  deriving DecidableEq, Repr

/-- STATUS 0x00000000 (10_state.md R45). -/
def Status.reset : Status :=
  { busy := false, done := false, err := false, prime := false, busyErr := false, errCode := 0 }

/-- The scratch registers in `State.reset`: DESIGN CHOICE 0 (log 7; R45 says unspecified); the engine is idle. -/
def Scratch.reset : Scratch :=
  { x := 0, d := 0, wit := 0, nPrime := 0, rr := 0, s := 0, k := 0, i := 0, j := 0, phase := .idle }

/-- The environment before anything has been placed in it: DESIGN CHOICE (log 2, log 5, log 7, log 14). -/
def Env.reset : Env :=
  { schedule := [], last := 0, resp := .ok, failed := false, answers := [], drawn := 0, fills := 0 }

/-- The state after a hardware reset of a block of the given width (10_state.md R45). -/
def State.resetOf (w : Nat) : State :=
  { width := w, a := 0, b := 0, n := 0, r := 0, cmd := 0, status := Status.reset, ctrl := { ie := false },
    rounds := Config.roundsReset, scratch := Scratch.reset, env := Env.reset }

/-- The machine right after reset, at the default width (10_state.md R45, 00_scope.md R6). -/
def State.reset : State := State.resetOf Config.defaultWidth

end Sys2Proof.Machine
end

