-- ==== Sys2Proof/Machine/Operands.lean ====
section
/-! DEFINITION. Machine/Operands.lean: where operands live: the address map (20_memory.md R64), the words of a wide
register (R65, R74), and the draws of the witness port (42_millerrabin.md R176). -/

namespace Sys2Proof.Machine

/-- `bitlen(v)` (00_scope.md R8): 0 for 0, else the `k` with `2^(k-1) <= v < 2^k`. -/
def bitlen (v : Nat) : Nat := if v = 0 then 0 else Nat.log2 v + 1

/-- `NW = W / 32` (00_scope.md R6). -/
def wordCount (w : Nat) : Nat := w / 32

/-- The register at a byte offset, if the offset is mapped and a multiple of 4 (20_memory.md R64, R67, R77). -/
def regAt (w : Nat) (off : Offset) : Option Reg :=
  let o := off.toNat
  let window := o / Config.windowBytes
  let i := o % Config.windowBytes / 4
  if o % 4 = 0 then
    if window = 0 then
      if i = 0 then some .cmd
      else if i = 1 then some .status
      else if i = 2 then some .ctrl
      else if i = 3 then some .rounds
      else if i = 4 then some .width
      else none
    else if i < wordCount w then
      if window = 1 then some (.word .A i)
      else if window = 2 then some (.word .B i)
      else if window = 3 then some (.word .N i)
      else if window = 4 then some (.word .R i)
      else none
    else none
  else none

/-- Locked registers: CMD, ROUNDS, A, B, N (20_memory.md R76). -/
def Reg.locked : Reg → Bool
  | .cmd => true
  | .rounds => true
  | .word .R _ => false
  | .word _ _ => true
  | _ => false

/-- The base offset of a wide register's window (20_memory.md R64). -/
def Wide.base : Wide → Nat
  | .A => 0x1000
  | .B => 0x2000
  | .N => 0x3000
  | .R => 0x4000

/-- Word `i` of a wide value, `q[32*i + 31 : 32*i]`, little-endian word order (20_memory.md R65). -/
def wordGet (q i : Nat) : Word := BitVec.ofNat 32 (q / 2 ^ (32 * i))

/-- `q` with bits `32*i + 31 : 32*i` replaced by `v` and its other bits unchanged (20_memory.md R74). -/
def wordSet (q i : Nat) (v : Word) : Nat :=
  q / 2 ^ (32 * (i + 1)) * 2 ^ (32 * (i + 1)) + v.toNat * 2 ^ (32 * i) + q % 2 ^ (32 * i)

/-- The value of a wide register (10_state.md R20). -/
def State.wide (s : State) : Wide → Nat
  | .A => s.a
  | .B => s.b
  | .N => s.n
  | .R => s.r

/-- The one place that writes a wide register. -/
def State.setWide (s : State) (q : Wide) (v : Nat) : State :=
  match q with
  | .A => { s with a := v }
  | .B => { s with b := v }
  | .N => { s with n := v }
  | .R => { s with r := v }

/-- An answer of the witness port for `n`: the port's contract excludes a value outside `[2, n - 2]`
(42_millerrabin.md R176 (3)), so such a number stands for one inside (log 5). -/
def toWitness (n x : Nat) : Nat := if 2 ≤ x ∧ x + 2 ≤ n then x else 2 + x % (n - 3)

/-- `Draw(n)`: the answer to the draw `k` places on from here, from the answers lined up and then free
(42_millerrabin.md R176, log 5). -/
def State.draw (s : State) (k : Nat) : Nat :=
  toWitness s.n (s.env.answers.getD k (Config.freeWitness (s.env.drawn + k)))

/-- The witness source after `used` draws: an answer is used once (42_millerrabin.md R176 (1)). -/
def State.takeDraws (s : State) (used : Nat) : State :=
  { s with env := { s.env with answers := s.env.answers.drop used, drawn := s.env.drawn + used } }

end Sys2Proof.Machine
end

