-- ==== Sys2Proof/Machine/Flags.lean ====
section
/-! DEFINITION. Machine/Flags.lean: the words of STATUS and CTRL, and every change of a STATUS field
(10_state.md R25, R26, R28, R32). -/

namespace Sys2Proof.Machine

/-- The value of STATUS.ERRCODE for an error (60_exceptions.md R241). -/
def ErrCode.code : ErrCode → BitVec 4
  | .range => 1
  | .modulus => 2
  | .opcode => 3
  | .witness => 4

/-- STATUS as the host reads it: bit 0 BUSY, 1 DONE, 2 ERR, 3 PRIME, 4 BUSYERR, 11:8 ERRCODE, the rest 0
(10_state.md R25). -/
def Status.toWord (st : Status) : Word :=
  0#20 ++ st.errCode ++ 0#3 ++ BitVec.ofBool st.busyErr ++ BitVec.ofBool st.prime ++ BitVec.ofBool st.err
    ++ BitVec.ofBool st.done ++ BitVec.ofBool st.busy

/-- CTRL as the host reads it: bit 0 IE, SRST and the rest 0 (10_state.md R28). -/
def Ctrl.toWord (c : Ctrl) : Word := 0#31 ++ BitVec.ofBool c.ie

/-- The flags at an acceptance (20_memory.md R70). -/
def Status.accepted (st : Status) : Status :=
  { st with busy := true, done := false, err := false, errCode := 0 }

/-- The flags at a completion without error (10_state.md R40). -/
def Status.completed (st : Status) : Status := { st with busy := false, done := true }

/-- The flags at a completion with a verdict (10_state.md R40). -/
def Status.judged (st : Status) (p : Bool) : Status := { st.completed with prime := p }

/-- The flags at a completion with an error (60_exceptions.md R244). -/
def Status.failed (st : Status) (c : ErrCode) : Status := { st.completed with err := true, errCode := c.code }

/-- The flags after a discarded write (20_memory.md R76). -/
def Status.discarded (st : Status) : Status := { st with busyErr := true }

/-- A host write to STATUS: DONE, ERR with ERRCODE, and BUSYERR are write-one-to-clear (20_memory.md R71). -/
def Status.cleared (st : Status) (v : Word) : Status :=
  { st with
    done := st.done && !v[1]
    err := st.err && !v[2]
    errCode := if v[2] then 0 else st.errCode
    busyErr := st.busyErr && !v[4] }

/-- The output `irq = CTRL.IE and STATUS.DONE` (10_state.md R32, 60_exceptions.md R248). -/
def State.irq (s : State) : Bool := s.ctrl.ie && s.status.done

end Sys2Proof.Machine
end

