-- ==== Sys2Proof/Machine/Ops.lean ====
section
/-! DEFINITION. Machine/Ops.lean: the changes of state that commands and transactions share: acceptance
(20_memory.md R70), completion (10_state.md R40), completion with an error (60_exceptions.md R244), acknowledgement
(R246) and reset (70_reset_and_hazards.md R270, R271). -/

namespace Sys2Proof.Machine

/-- The scratch registers when their content is unspecified (10_state.md R38): free values of their widths, the engine
idle (log 7). -/
def State.freeScratch (s : State) : Scratch :=
  let f := Config.freeScratch s.env.fills
  { x := f 0 % 2 ^ s.width, d := f 1 % 2 ^ s.width, wit := f 2 % 2 ^ s.width,
    nPrime := f 3 % 2 ^ s.width, rr := f 4 % 2 ^ s.width,
    s := f 5 % 2 ^ 16, k := f 6 % 2 ^ 32, i := f 7 % 2 ^ 16, j := f 8 % 2 ^ 16, phase := .idle }

/-- The engine goes idle and its scratch registers become unspecified (10_state.md R38, R27). -/
def State.idled (s : State) : State :=
  { s with scratch := s.freeScratch, env := { s.env with fills := s.env.fills + 1 } }

/-- Acceptance of a command word, legal or not (20_memory.md R70); the sequencer leaves idle (10_state.md R27). -/
def State.accept (s : State) (v : Word) : State :=
  { s with cmd := v, status := s.status.accepted, scratch := { s.scratch with phase := .pre } }

/-- Completion with a value for R (10_state.md R40, `Result(v)`). -/
def State.completeResult (s : State) (v : Nat) : State :=
  { s with r := v, status := s.status.completed }.idled

/-- Completion with a verdict for PRIME (10_state.md R40, `Verdict(p)`). -/
def State.completeVerdict (s : State) (p : Bool) : State :=
  { s with status := s.status.judged p }.idled

/-- Completion with an error, the block's one exception entry (60_exceptions.md R244): ERR, ERRCODE, BUSY and DONE
change; R and PRIME keep their values; nothing is saved and control goes nowhere. -/
def State.completeError (s : State) (c : ErrCode) : State :=
  { s with status := s.status.failed c }.idled

/-- The completion step (10_state.md R40). -/
def State.completion (s : State) : ExecOut → State
  | .result v => s.completeResult v
  | .verdict p => s.completeVerdict p
  | .err c => s.completeError c

/-- The completion of a word that is no command (10_state.md R41, 60_exceptions.md R242). -/
def State.completeIllegal (s : State) : State := s.completeError .opcode

/-- Acknowledgement, the block's "trap return" (60_exceptions.md R246): a write to STATUS, which restores nothing. -/
def State.acknowledge (s : State) (v : Word) : State := { s with status := s.status.cleared v }

/-- Hardware and soft reset (70_reset_and_hazards.md R270, R271, R272): every register at its reset value, a command in
flight abandoned, the scratch registers unspecified; WIDTH is constant and the environment is not part of the block
(R273). -/
def State.resetBlock (s : State) : State :=
  { State.resetOf s.width with env := s.env }.idled

end Sys2Proof.Machine
end

