-- ==== Sys2Proof/Machine/Multiplier.lean ====
section
/-! DEFINITION. Machine/Multiplier.lean: the modular multiplier (spec 40_modmul.md): `MulMod`, the command MODMUL, and
the two reductions inside the unit, which nothing observes. -/

namespace Sys2Proof.Machine

/-- R130: `MulMod(a, b, n) = (a * b) mod n`, for `n >= 1`. -/
def mulMod (a b n : Nat) : Nat := a * b % n

/-- R131: `ExecModMul`. -/
def modmulOut (a b n : Nat) : ExecOut := if n = 0 then .err .modulus else .result (mulMod a b n)

/-- R131: MODMUL. -/
def execModmul (s : State) : Host.Outcome State Fault Refusal := .next (s.completion (modmulOut s.a s.b s.n))

/-- The inverse of an odd `n` modulo `2^k`, one bit at a time: R135 leaves the method open ("any exact method",
log 13). -/
def invPow2 (n : Nat) : Nat → Nat
  | 0 => 0
  | k + 1 => let y := invPow2 n k; if n * y % 2 ^ (k + 1) = 1 then y else y + 2 ^ k

/-- R135: `n' = (-(n^-1)) mod 2^W`. -/
def montPrime (w n : Nat) : Nat := (2 ^ w - invPow2 n w) % 2 ^ w

/-- R135: `RR = 2^(2W) mod n`. -/
def montRR (w n : Nat) : Nat := 2 ^ (2 * w) % n

/-- R136: `REDC(T, n)`, with radix `2^w` and the constant `n'`. -/
def redc (w nPrime n T : Nat) : Nat :=
  let m := T % 2 ^ w * nPrime % 2 ^ w
  let t := (T + m * n) / 2 ^ w
  if n ≤ t then t - n else t

/-- R136: `MontMulMod(a', b', n)`. -/
def montMulMod (w nPrime rr a b n : Nat) : Nat :=
  let abar := redc w nPrime n (a * rr)
  redc w nPrime n (abar * b)

/-- R137: one corrective subtraction. -/
def subtractOnce (r n : Nat) : Nat := if n ≤ r then r - n else r

/-- R137: `BarrettRed(T, n)`; the loop makes at most two subtractions. -/
def barrettRed (T n : Nat) : Nat :=
  let k := bitlen n
  let mu := 2 ^ (2 * k) / n
  let q1 := T / 2 ^ (k - 1)
  let q3 := q1 * mu / 2 ^ (k + 1)
  subtractOnce (subtractOnce (T - q3 * n) n) n

/-- R133, R134: the unit, with the Montgomery constants it was given: operands reduced first, then the Montgomery path
for odd `n` and the Barrett path for even `n`. -/
def unitMulMod (w nPrime rr a b n : Nat) : Nat :=
  if n % 2 = 1 then montMulMod w nPrime rr (a % n) (b % n) n
  else barrettRed (a % n * (b % n)) n

end Sys2Proof.Machine
end

