-- ==== Sys2Proof/Machine/Exponent.lean ====
section
/-! DEFINITION. Machine/Exponent.lean: the exponentiation engine (spec 41_modexp.md): the algorithm of R151, the
commands MODEXP and MODEXP.C, and the refinement in Montgomery form. -/

namespace Sys2Proof.Machine

/-- R150: `ModExp(a, b, n) = a^b mod n`, for `n >= 1`. The engine reaches it by `sqMul` (R151, log 12). -/
def modExp (a b n : Nat) : Nat := a ^ b % n

/-- R151: one iteration, for a bit of the exponent: a squaring, and a multiplication when the bit is 1. -/
def sqMulBit (a n : Nat) (bit : Bool) (x : Nat) : Nat :=
  if bit then mulMod (mulMod x x n) a n else mulMod x x n

/-- R151: the iterations for bits `i - 1` down to 0. -/
def sqMulLoop (a b n : Nat) : Nat → Nat → Nat
  | 0, x => x
  | i + 1, x => sqMulLoop a b n i (sqMulBit a n (b.testBit i) x)

/-- R151: `SqMul(a, b, n)`, for `n >= 1`. -/
def sqMul (a b n : Nat) : Nat := sqMulLoop a b n (bitlen b) (1 % n)

/-- R152: `ExecModExp`. -/
def modexpOut (a b n : Nat) : ExecOut := if n = 0 then .err .modulus else .result (sqMul a b n)

/-- R153: `ExecModExpC`; the range check comes first. -/
def modexpCOut (a b n : Nat) : ExecOut := if n ≤ a then .err .range else .result (sqMul a b n)

/-- R152: MODEXP. -/
def execModexp (s : State) : Host.Outcome State Fault Refusal := .next (s.completion (modexpOut s.a s.b s.n))

/-- R153: MODEXP.C. -/
def execModexpC (s : State) : Host.Outcome State Fault Refusal := .next (s.completion (modexpCOut s.a s.b s.n))

/-- R156: the iterations with values kept in Montgomery form. -/
def sqMulMontLoop (w nPrime abar b n : Nat) : Nat → Nat → Nat
  | 0, x => x
  | i + 1, x =>
    let sq := redc w nPrime n (x * x)
    sqMulMontLoop w nPrime abar b n i (if b.testBit i then redc w nPrime n (sq * abar) else sq)

/-- R156: `SqMulMont(a, b, n)`, for odd `n`. -/
def sqMulMont (w a b n : Nat) : Nat :=
  let nPrime := montPrime w n
  let rr := montRR w n
  let abar := redc w nPrime n (a % n * rr)
  redc w nPrime n (sqMulMontLoop w nPrime abar b n (bitlen b) (redc w nPrime n rr))

end Sys2Proof.Machine
end

