-- ==== Sys2Proof/Machine/MillerRabin.lean ====
section
/-! DEFINITION. Machine/MillerRabin.lean: the Miller-Rabin tester (spec 42_millerrabin.md): prefilter, decomposition,
one trial, the whole test, and the commands MRTEST and MRWIT. -/

namespace Sys2Proof.Machine

/-- R172: `Prefilter(n)`: `some p` is `Decided(p)`, `none` is `Continue`. -/
def prefilter (n : Nat) : Option Bool :=
  if n < 2 then some false
  else if n = 2 ∨ n = 3 then some true
  else if n % 2 = 0 then some false
  else none

/-- R173: halve `d` while it is even, at most `fuel` times. -/
def decomposeLoop : Nat → Nat → Nat → Nat × Nat
  | 0, r, d => (r, d)
  | fuel + 1, r, d => if d % 2 = 0 then decomposeLoop fuel (r + 1) (d / 2) else (r, d)

/-- R173: `Decompose(n) = (r, d)` with `n - 1 = 2^r * d`, `d` odd; "at most bitlen(n) - 1 iterations". -/
def decompose (n : Nat) : Nat × Nat := decomposeLoop (bitlen n) 0 (n - 1)

/-- R175: the remaining `m` squarings of a trial. -/
def trialSquarings (n : Nat) : Nat → Nat → Bool
  | 0, _ => false
  | m + 1, x =>
    let x' := mulMod x x n
    if x' = n - 1 then true else trialSquarings n m x'

/-- R175: `Trial(n, a)`; true is "the witness passes". -/
def trial (n a : Nat) : Bool :=
  let rd := decompose n
  let x := sqMul a rd.2 n
  if x = 1 ∨ x = n - 1 then true else trialSquarings n (rd.1 - 1) x

/-- R177: `rounds` more trials from trial `k` on, with the number of draws made in all. -/
def trials (n : Nat) (w : Nat → Nat) : Nat → Nat → Bool × Nat
  | 0, k => (true, k)
  | rounds + 1, k => if trial n (w k) then trials n w rounds (k + 1) else (false, k + 1)

/-- R177: `IsPrime(n, rounds, w)`: the verdict and how many draws were used. -/
def isPrime (n rounds : Nat) (w : Nat → Nat) : Bool × Nat :=
  match prefilter n with
  | some p => (p, 0)
  | none => trials n w rounds 0

/-- R179: `ExecMrWit`; the witness is looked at only when the prefilter says `Continue`. -/
def mrwitOut (n a : Nat) : ExecOut :=
  match prefilter n with
  | some p => .verdict p
  | none => if a < 2 ∨ n - 2 < a then .err .witness else .verdict (trial n a)

/-- R178: MRTEST; the draws it used are used up (R176). -/
def execMrtest (s : State) : Host.Outcome State Fault Refusal :=
  let out := isPrime s.n s.rounds.toNat s.draw
  .next ((s.takeDraws out.2).completion (.verdict out.1))

/-- R179: MRWIT. -/
def execMrwit (s : State) : Host.Outcome State Fault Refusal := .next (s.completion (mrwitOut s.n s.a))

end Sys2Proof.Machine
end

