-- ==== Sys2Proof/Machine/Dispatch.lean ====
section
/-! DEFINITION. Machine/Dispatch.lean: one arm per command: the completion of that command (10_state.md R41). -/

namespace Sys2Proof.Machine

def exec (i : Instr) (s : State) : Host.Outcome State Fault Refusal :=
  match i with
  | .modmul => Sys2Proof.Machine.execModmul s
  | .modexp => Sys2Proof.Machine.execModexp s
  | .modexpC => Sys2Proof.Machine.execModexpC s
  | .mrtest => Sys2Proof.Machine.execMrtest s
  | .mrwit => Sys2Proof.Machine.execMrwit s

end Sys2Proof.Machine
end

