-- ==== Sys2Proof/Machine/Engine.lean ====
section
/-! DEFINITION. Machine/Engine.lean: the engine's one step, the completion of the pending command (10_state.md R40,
R41). -/

namespace Sys2Proof.Machine

/-- The engine's step: the pending word is CMD (10_state.md R39); a word that is no command ends with `ERR_OPCODE`
(R41, 60_exceptions.md R242). -/
def engineStep (s : State) : Host.Outcome State Fault Refusal :=
  match decode s.cmd with
  | .ok i => exec i s
  | .error _ => .next s.completeIllegal

end Sys2Proof.Machine
end

