-- ==== Sys2Proof/Machine/Bus.lean ====
section
/-! DEFINITION. Machine/Bus.lean: the two host transactions (spec 20_memory.md R61 to R77). -/

namespace Sys2Proof.Machine

/-- The word a register reads as (20_memory.md R64, R65; 10_state.md R24 to R30). -/
def State.readReg (s : State) : Reg → Word
  | .cmd => s.cmd
  | .status => s.status.toWord
  | .ctrl => s.ctrl.toWord
  | .rounds => s.rounds
  | .width => BitVec.ofNat 32 s.width
  | .word q i => wordGet (s.wide q) i

/-- R61: `BusRead(off)`. It changes nothing, so it gives no state. -/
def State.busRead (s : State) (off : Offset) : Resp × Word :=
  match regAt s.width off with
  | some g => (.ok, s.readReg g)
  | none => (.error, 0)

/-- R72: a write to CTRL: a soft reset when bit 1 is set, else IE from bit 0. -/
def State.writeCtrl (s : State) (v : Word) : State :=
  if v[1] then s.resetBlock else { s with ctrl := { ie := v[0] } }

/-- R74, R75: a write to a word of a wide register; R ignores it. -/
def State.writeWord (s : State) (q : Wide) (i : Nat) (v : Word) : State :=
  match q with
  | .R => s
  | q => s.setWide q (wordSet (s.wide q) i v)

/-- The effect of a write on the register that takes it: R70 to R75. -/
def State.writeUnlocked (s : State) (v : Word) : Reg → State
  | .cmd => s.accept v
  | .status => s.acknowledge v
  | .ctrl => s.writeCtrl v
  | .rounds => { s with rounds := v }
  | .width => s
  | .word q i => s.writeWord q i v

/-- R76: while the block is busy a write to a locked register is discarded and BUSYERR records it. -/
def State.writeReg (s : State) (g : Reg) (v : Word) : State :=
  if s.status.busy && g.locked then { s with status := s.status.discarded } else s.writeUnlocked v g

/-- R62: `BusWrite(off, v)`. -/
def State.busWrite (s : State) (off : Offset) (v : Word) : Resp × State :=
  match regAt s.width off with
  | some g => (.ok, s.writeReg g v)
  | none => (.error, s)

end Sys2Proof.Machine
end

