-- ==== Sys2Proof/Machine/HostAgent.lean ====
section
/-! DEFINITION. Machine/HostAgent.lean: whose turn it is (20_memory.md R60, R80) and what the host's turn does: the
primitive statements of a host script (30_encoding.md R108) and the reset input (70_reset_and_hazards.md R270). -/

namespace Sys2Proof.Machine

/-- The schedule without its first event. -/
def State.popEvent (s : State) : State := { s with env := { s.env with schedule := s.env.schedule.tail } }

/-- Whether the engine's completion is the next step: it is enabled (10_state.md R40) and it falls here, because the
schedule says so, because the host has nothing left, or because the host waits for it (R285, log 2, log 3). -/
def State.engineTurn (s : State) : Bool :=
  s.status.busy &&
    match s.env.schedule with
    | [] => true
    | .complete :: _ => true
    | .wait :: _ => !s.status.done
    | _ => false

/-- The schedule once the engine's turn is taken: a `complete` is used up, a `wait` goes on waiting. -/
def State.turnTaken (s : State) : State :=
  match s.env.schedule with
  | .complete :: _ => s.popEvent
  | _ => s

/-- `RD32 off` (R108): the data becomes the script's `t`, and nothing of the block changes. -/
def State.hostRead (s : State) (off : Offset) : State :=
  let answer := s.busRead off
  { s with env := { s.env with resp := answer.1, last := answer.2 } }

/-- `WR32 off, v` (R108). -/
def State.hostWrite (s : State) (off : Offset) (v : Word) : State :=
  let answer := s.busWrite off v
  { answer.2 with env := { answer.2.env with resp := answer.1 } }

/-- `EXPECT v` (R108): an assertion about `t`, no transaction; a failed one is remembered (log 14). -/
def State.hostExpect (s : State) (v : Nat) : State :=
  { s with env := { s.env with failed := s.env.failed || s.env.last.toNat != v } }

/-- `WAIT` (R108): a read of STATUS, made again until its data has DONE set. -/
def State.hostWait (s : State) : State :=
  if s.status.done then s.popEvent.hostRead 0x0004 else s.hostRead 0x0004

/-- The host's turn: the first event of the schedule; with none the block is idle and nothing happens (R284). A
completion that is not enabled does nothing (10_state.md R40). -/
def State.hostTurn (s : State) : State :=
  match s.env.schedule with
  | [] => s
  | .write off v :: _ => s.popEvent.hostWrite off v
  | .writeLast off :: _ => s.popEvent.hostWrite off s.env.last
  | .read off :: _ => s.popEvent.hostRead off
  | .wait :: _ => s.hostWait
  | .expect v :: _ => s.popEvent.hostExpect v
  | .reset :: _ => s.popEvent.resetBlock
  | .complete :: _ => s.popEvent

/-- The schedule that lets the engine complete before anything the host still has to do. -/
def engineFirst : List Event → List Event
  | [] => []
  | events => .complete :: events

/-- The same state with the engine's turn next, if it is busy. -/
def State.engineNext (s : State) : State :=
  { s with env := { s.env with schedule := engineFirst s.env.schedule } }

end Sys2Proof.Machine
end

