-- ==== Sys2Proof/Machine/Step.lean ====
section
/-! DEFINITION. Machine/Step.lean: one step of the whole machine: the engine's completion or the host's next event
(00_scope.md R12, 20_memory.md R60), and how a command word is placed where the next step runs it. -/

namespace Sys2Proof.Machine

/-- One step of the run: exactly one agent moves (20_memory.md R60). -/
def step (s : State) : Host.Outcome State Fault Refusal :=
  if s.engineTurn then engineStep s.turnTaken else .next s.hostTurn

/-- The state in which the block has just accepted this word (20_memory.md R70) and the engine moves next (log 4). -/
def State.withFetchWord (s : State) (nbits w : Nat) : State :=
  (s.accept (BitVec.ofNat 32 (w % 2 ^ nbits))).engineNext

end Sys2Proof.Machine
end

