-- ==== Sys2Proof/Machine/Script.lean ====
section
/-! DEFINITION. Machine/Script.lean: the host-script language (30_encoding.md R108, R109) and its expansion into the
transactions the block sees (R110). -/

namespace Sys2Proof.Machine

/-- The statements of a host script. -/
inductive Stmt where
  | wr32 (off : Offset) (v : Word)
  | rd32 (off : Offset)
  | wait
  | expect (v : Nat)
  | expectW (q : Wide) (v : Nat)
  | lda (v : Nat)
  | ldb (v : Nat)
  | ldn (v : Nat)
  | setRounds (k : Word)
  | command (i : Instr)
  | ack
  | srst
  | irqOn
  | irqOff
  | movra
  | encrypt
  | decrypt
  | isPrime
  deriving DecidableEq, Repr

/-- The offset of word `i` of a wide register (20_memory.md R64). -/
def wordOffset (q : Wide) (i : Nat) : Offset := BitVec.ofNat 16 (q.base + 4 * i)

/-- The writes of all `NW` words of a value, in ascending order (R109, LDA, LDB, LDN). -/
def loadWide (w : Nat) (q : Wide) (v : Nat) : List Event :=
  (List.range (wordCount w)).map fun i => .write (wordOffset q i) (wordGet v i)

/-- What EXPECTW expects of word `i`: the value's word, and of the top word all that is left of the value, so that a
value of `2^W` or more is expected in vain. -/
def expectedWord (w v i : Nat) : Nat := if i + 1 = wordCount w then v / 2 ^ (32 * i) else (wordGet v i).toNat

/-- The reads of all `NW` words, in ascending order, which together assert that the value is `v` (R108, EXPECTW). -/
def expectWide (w : Nat) (q : Wide) (v : Nat) : List Event :=
  (List.range (wordCount w)).flatMap fun i => [.read (wordOffset q i), .expect (expectedWord w v i)]

/-- R to A, word by word (R109, MOVRA). -/
def moveRA (w : Nat) : List Event :=
  (List.range (wordCount w)).flatMap fun i => [.read (wordOffset .R i), .writeLast (wordOffset .A i)]

/-- A write of a command word to CMD (R109). -/
def issue (i : Instr) : List Event := [.write 0x0000 (encode i)]

/-- The expansion of a statement on a block of width `w` (R108, R109). -/
def Stmt.expand (w : Nat) : Stmt → List Event
  | .wr32 off v => [.write off v]
  | .rd32 off => [.read off]
  | .wait => [.wait]
  | .expect v => [.expect v]
  | .expectW q v => expectWide w q v
  | .lda v => loadWide w .A v
  | .ldb v => loadWide w .B v
  | .ldn v => loadWide w .N v
  | .setRounds k => [.write 0x000C k]
  | .command i => issue i
  | .ack => [.write 0x0004 0x00000016]
  | .srst => [.write 0x0008 0x00000002]
  | .irqOn => [.write 0x0008 0x00000001]
  | .irqOff => [.write 0x0008 0x00000000]
  | .movra => moveRA w
  | .encrypt => issue .modexpC
  | .decrypt => issue .modexp
  | .isPrime => issue .mrtest

/-- R109: the value of LDA, LDB, LDN fits the register, `v < 2^W`. -/
def Stmt.wellFormed (w : Nat) : Stmt → Bool
  | .lda v => v < 2 ^ w
  | .ldb v => v < 2 ^ w
  | .ldn v => v < 2 ^ w
  | _ => true

/-- R110: a script is the sequence of transactions its statements expand to. -/
def scriptEvents (w : Nat) (script : List Stmt) : List Event := script.flatMap (Stmt.expand w)

/-- R109: `encrypt(m, pub)`, and R225. -/
def encryptScript (n e m : Nat) : List Stmt := [.ldn n, .ldb e, .lda m, .encrypt, .wait]

/-- R109: `decrypt(c, priv)`, and R225. -/
def decryptScript (n d c : Nat) : List Stmt := [.ldn n, .ldb d, .lda c, .decrypt, .wait]

/-- R109: `is_prime(n, rounds)`, and R210. -/
def isPrimeScript (n : Nat) (rounds : Word) : List Stmt := [.ldn n, .setRounds rounds, .isPrime, .wait]

/-- The machine with a host program placed at its edge (log 4); a script with a statement that R109 bars on this block is
none. -/
def State.withScript (s : State) (script : List Stmt) : Option State :=
  if script.all (Stmt.wellFormed s.width) then
    some { s with env := { s.env with schedule := scriptEvents s.width script } }
  else none

end Sys2Proof.Machine
end

