-- ==== Sys2Proof/Machine/Sequencer.lean ====
section
/-! DEFINITION. Machine/Sequencer.lean: a command as a sequence of phases over the scratch registers
(42_millerrabin.md R182, 10_state.md R38), every product made by the unit (40_modmul.md R133). Nothing observes it:
`exec` gives the same state at the end. R182 gives the phases of MRTEST and MRWIT; those of the other words are the
model's (log 15). -/

namespace Sys2Proof.Machine

/-- Move to a phase. -/
def State.goto (s : State) (p : Phase) : State := { s with scratch := { s.scratch with phase := p } }

/-- The Montgomery constants, computed at the start of every command that takes the Montgomery path (R135). -/
def State.loadConstants (s : State) : State :=
  if s.n % 2 = 1 then
    { s with scratch := { s.scratch with nPrime := montPrime s.width s.n, rr := montRR s.width s.n } }
  else s

/-- A product modulo N, by the unit, with the constants held in scratch (R133, R138). -/
def State.product (s : State) (x y : Nat) : Nat := unitMulMod s.width s.scratch.nPrime s.scratch.rr x y s.n

/-- The start of an exponentiation: `x := 1 mod n`, the index above the top bit of the exponent (R151). -/
def State.startPower (s : State) (exponent : Nat) : State :=
  { s with scratch := { s.scratch with x := 1 % s.n, i := bitlen exponent, phase := .exp } }

/-- PRE: the checks each command starts with, in the order of 60_exceptions.md R243. -/
def State.seqPre (s : State) : State :=
  match decode s.cmd with
  | .error _ => s.goto (.fin (.err .opcode))
  | .ok .modmul =>
    if s.n = 0 then s.goto (.fin (.err .modulus))
    else let s := s.loadConstants; s.goto (.fin (.result (s.product s.a s.b)))
  | .ok .modexp => if s.n = 0 then s.goto (.fin (.err .modulus)) else s.loadConstants.startPower s.b
  | .ok .modexpC => if s.n ≤ s.a then s.goto (.fin (.err .range)) else s.loadConstants.startPower s.b
  | .ok .mrtest =>
    match prefilter s.n with
    | some p => s.goto (.fin (.verdict p))
    | none => s.loadConstants.goto .dec
  | .ok .mrwit =>
    match prefilter s.n with
    | some p => s.goto (.fin (.verdict p))
    | none => if s.a < 2 ∨ s.n - 2 < s.a then s.goto (.fin (.err .witness)) else s.loadConstants.goto .dec

/-- DEC: `(S, D) <- Decompose(N)`, `K <- 0`. -/
def State.seqDec (s : State) : State :=
  let rd := decompose s.n
  { s with scratch := { s.scratch with s := rd.1, d := rd.2, k := 0, phase := .rnd } }

/-- The start of a trial with a witness. -/
def State.startTrial (s : State) (a : Nat) : State :=
  { s with scratch := { s.scratch with wit := a } }.startPower s.scratch.d

/-- RND: another trial, with a drawn witness or with the one of A, or the verdict 1 when all are done. -/
def State.seqRnd (s : State) : State :=
  match decode s.cmd with
  | .ok .mrwit => if s.scratch.k = 1 then s.goto (.fin (.verdict true)) else s.startTrial s.a
  | _ =>
    if s.scratch.k = s.rounds.toNat then s.goto (.fin (.verdict true))
    else (s.takeDraws 1).startTrial (s.draw 0)

/-- EXP: one bit of the exponent (R151), then the next phase. -/
def State.expBit (s : State) (base exponent : Nat) (finished : State) : State :=
  match s.scratch.i with
  | 0 => finished
  | i + 1 =>
    let sq := s.product s.scratch.x s.scratch.x
    { s with scratch := { s.scratch with x := if exponent.testBit i then s.product sq base else sq, i := i } }

/-- EXP of a MODEXP or MODEXP.C (R151), or of a trial (R175). -/
def State.seqExp (s : State) : State :=
  match decode s.cmd with
  | .ok .mrtest => s.expBit s.scratch.wit s.scratch.d ({ s with scratch := { s.scratch with j := 0, phase := .cmp } })
  | .ok .mrwit => s.expBit s.scratch.wit s.scratch.d ({ s with scratch := { s.scratch with j := 0, phase := .cmp } })
  | _ => s.expBit s.a s.b (s.goto (.fin (.result s.scratch.x)))

/-- A trial has passed: count it and go on (R182, CMP and SQR). -/
def State.trialPassed (s : State) : State :=
  { s with scratch := { s.scratch with k := s.scratch.k + 1, phase := .rnd } }

/-- CMP: the two comparisons of R174. -/
def State.seqCmp (s : State) : State :=
  if s.scratch.x = 1 ∨ s.scratch.x = s.n - 1 then s.trialPassed else s.goto .sqr

/-- SQR: one more squaring, or the verdict 0 when all are done (R175, R183). -/
def State.seqSqr (s : State) : State :=
  if s.scratch.j = s.scratch.s - 1 then s.goto (.fin (.verdict false))
  else
    let x := s.product s.scratch.x s.scratch.x
    let s := { s with scratch := { s.scratch with x := x, j := s.scratch.j + 1 } }
    if x = s.n - 1 then s.trialPassed else s

/-- One phase of the sequencer (R182); FIN is the completion step of 10_state.md R40. -/
def seqStep (s : State) : State :=
  match s.scratch.phase with
  | .idle => s
  | .pre => s.seqPre
  | .dec => s.seqDec
  | .rnd => s.seqRnd
  | .exp => s.seqExp
  | .cmp => s.seqCmp
  | .sqr => s.seqSqr
  | .fin out => s.completion out

/-- The sequencer run for a number of phases. -/
def seqRun : Nat → State → State
  | 0, s => s
  | k + 1, s => seqRun k (seqStep s)

end Sys2Proof.Machine
end

