-- ==== Sys2Proof/Machine/HostProcedures.lean ====
section
/-! DEFINITION. Machine/HostProcedures.lean: the software around the block that the spec settles
(43_host_procedures.md): pure functions of a host, no state of the block (R200). -/

namespace Sys2Proof.Machine

/-- The errors of the software (R235), and the refusals of a call outside a procedure's domain (R200, R212). -/
inductive HostError where
  /-- "message not in `[0, n)`", a negative one among them, which `encrypt_text` words "message too long for this
  key". -/
  | range
  /-- "decrypted byte sequence is not valid text". -/
  | encoding
  /-- "requested modular inverse does not exist". -/
  | arithmeticPrecondition
  /-- `MAX_ATTEMPTS` attempts were made (R212). -/
  | generationFailed
  /-- The block answered with another error. -/
  | command (c : ErrCode)
  /-- A value that does not fit a register, or a bit count of 0. -/
  | outsideDomain
  deriving DecidableEq, Repr

/-- R202: Euclid's algorithm, at most `fuel` divisions. -/
def gcdLoop : Nat → Nat → Nat → Nat
  | 0, a, _ => a
  | fuel + 1, a, b => if b = 0 then a else gcdLoop fuel b (a % b)

/-- R202: `gcd(a, b)`; `b` falls at every division, so `b + 1` are enough. -/
def hostGcd (a b : Nat) : Nat := gcdLoop (b + 1) a b

/-- R207: the loop of the extended Euclidean algorithm, at most `fuel` divisions. -/
def inverseLoop : Nat → Nat → Nat → Int → Int → Int
  | 0, _, _, _, x1 => x1
  | fuel + 1, e, phi, x0, x1 =>
    if 1 < e then inverseLoop fuel phi (e % phi) (x1 - ((e / phi : Nat) : Int) * x0) x0 else x1

/-- R205, R206, R207: `modular_inverse(e, phi)`. -/
def modularInverse (e phi : Nat) : Except HostError Nat :=
  if phi = 1 then .ok 0
  else if phi = 0 ∨ hostGcd e phi ≠ 1 then .error .arithmeticPrecondition
  else
    let x1 := inverseLoop (phi + 1) e phi 0 1
    .ok (if x1 < 0 then x1 + phi else x1).toNat

/-- One attempt of `random_prime`: the host's random bits and the answers of the witness port (R211, R236). -/
structure Attempt where
  raw     : Nat
  witness : Nat → Nat

/-- R211: a `bits`-bit draw with its top bit and its bottom bit set. -/
def candidate (bits raw : Nat) : Nat := raw % 2 ^ bits ||| 2 ^ (bits - 1) ||| 1

/-- R210: `is_prime(n, rounds)` on a block of width `w`; a negative count is outside the procedure. -/
def hostIsPrime (w n : Nat) (rounds : Int) (witness : Nat → Nat) : Except HostError Bool :=
  if n < 2 ^ w ∧ 0 ≤ rounds ∧ rounds < 2 ^ 32 then
    .ok (isPrime n rounds.toNat fun k => toWitness n (witness k)).1
  else .error .outsideDomain

/-- R211: `random_prime(bits)`, with the attempts not used; the list's length is `MAX_ATTEMPTS` (R212, log 16). A bit
count of 0, a negative one, and one above `w` are refused (R212). -/
def randomPrime (w : Nat) (bits : Int) : List Attempt → Except HostError (Nat × List Attempt)
  | [] => if bits ≤ 0 ∨ w < bits then .error .outsideDomain else .error .generationFailed
  | t :: rest =>
    if bits ≤ 0 ∨ w < bits then .error .outsideDomain
    else
      match hostIsPrime w (candidate bits.toNat t.raw) 10 t.witness with
      | .error e => .error e
      | .ok true => .ok (candidate bits.toNat t.raw, rest)
      | .ok false => randomPrime w bits rest

/-- R220: `q = random_prime(bits/2)`, "retrying while `q = p`", at most `fuel` times. DESIGN CHOICE (log 16): a retry goes
on with the attempts that are left and has no cap of its own. -/
def distinctPrime (w : Nat) (bits : Int) (p : Nat) : Nat → List Attempt → Except HostError Nat
  | 0, _ => .error .generationFailed
  | fuel + 1, attempts =>
    match randomPrime w bits attempts with
    | .error e => .error e
    | .ok (q, rest) => if q = p then distinctPrime w bits p fuel rest else .ok q

/-- R220: the scan of odd candidates, at most `fuel` of them. -/
def exponentScan (phi : Nat) : Nat → Nat → Nat
  | 0, e => e
  | fuel + 1, e => if hostGcd e phi = 1 then e else exponentScan phi fuel (e + 2)

/-- R220: the public exponent; `phi - 1` ends the scan at the latest. -/
def chooseExponent (phi : Nat) : Nat := if hostGcd 65537 phi = 1 then 65537 else exponentScan phi phi 3

/-- R200: `PublicKey { n, e }`. -/
structure PublicKey where
  n : Nat
  e : Nat
  deriving DecidableEq, Repr

/-- R200: `PrivateKey { n, d }`. -/
structure PrivateKey where
  n : Nat
  d : Nat
  deriving DecidableEq, Repr

/-- R220: the key pair of two primes. -/
def keypairOf (p q : Nat) : Except HostError (PublicKey × PrivateKey) :=
  let n := p * q
  let phi := (p - 1) * (q - 1)
  let e := chooseExponent phi
  match modularInverse e phi with
  | .error err => .error err
  | .ok d => .ok (⟨n, e⟩, ⟨n, d⟩)

/-- R220, R221: `generate_keypair(bits)`. DESIGN CHOICE (log 16): the spec does not say what `MAX_ATTEMPTS` counts here;
one list of attempts serves p, q and every retry while `q = p`, so its length caps all the attempts of the call together,
not each `random_prime` and the retry separately. -/
def generateKeypair (w : Nat) (bits : Int) (attempts : List Attempt) : Except HostError (PublicKey × PrivateKey) :=
  match randomPrime w (bits / 2) attempts with
  | .error e => .error e
  | .ok (p, rest) =>
    match distinctPrime w (bits / 2) p (rest.length + 1) rest with
    | .error e => .error e
    | .ok q => keypairOf p q

/-- What a host makes of the outcome of a MODEXP or MODEXP.C (R225). -/
def fromOutcome : ExecOut → Except HostError Nat
  | .result v => .ok v
  | .err .range => .error .range
  | .err c => .error (.command c)
  | .verdict _ => .error .outsideDomain

/-- R225: `encrypt(m, pub)` on a block of width `w`; "A negative `m` ... is caught by the host before loading" (R235). -/
def hostEncrypt (w : Nat) (pub : PublicKey) (m : Int) : Except HostError Nat :=
  if m < 0 then .error .range
  else if m < 2 ^ w ∧ pub.e < 2 ^ w ∧ pub.n < 2 ^ w then fromOutcome (modexpCOut m.toNat pub.e pub.n)
  else .error .outsideDomain

/-- R225: `decrypt(c, priv)` on a block of width `w`. -/
def hostDecrypt (w : Nat) (priv : PrivateKey) (c : Nat) : Except HostError Nat :=
  if c < 2 ^ w ∧ priv.d < 2 ^ w ∧ priv.n < 2 ^ w then fromOutcome (modexpOut c priv.d priv.n)
  else .error .outsideDomain

end Sys2Proof.Machine
end

