-- ==== Sys2Proof/Machine/TextCodec.lean ====
section
/-! DEFINITION. Machine/TextCodec.lean: the text codec of the software around the block (43_host_procedures.md R230 to
R232). UTF-8 and its validity are the Unicode standard's, PRESUMED (log 17). -/

namespace Sys2Proof.Machine

/-- The UTF-8 bytes of a character (log 17). -/
def utf8Char (c : Char) : List Nat :=
  let v := c.toNat
  if v < 0x80 then [v]
  else if v < 0x800 then [0xC0 + v / 0x40, 0x80 + v % 0x40]
  else if v < 0x10000 then [0xE0 + v / 0x1000, 0x80 + v / 0x40 % 0x40, 0x80 + v % 0x40]
  else [0xF0 + v / 0x40000, 0x80 + v / 0x1000 % 0x40, 0x80 + v / 0x40 % 0x40, 0x80 + v % 0x40]

/-- The UTF-8 bytes of a text, first byte first. -/
def utf8Encode (text : List Char) : List Nat := text.flatMap utf8Char

/-- Whether a byte continues a character. -/
def continues (b : Nat) : Bool := 0x80 ≤ b && b < 0xC0

/-- A scalar value written in its shortest form, as a character. -/
def scalar (least v : Nat) : Option Char :=
  if least ≤ v ∧ (v < 0xD800 ∨ 0xE000 ≤ v) ∧ v < 0x110000 then some (Char.ofNat v) else none

/-- The first character of a byte sequence and the bytes after it, if they are valid UTF-8. -/
def utf8Next : List Nat → Option (Char × List Nat)
  | [] => none
  | b0 :: rest =>
    if b0 < 0x80 then (scalar 0 b0).map fun c => (c, rest)
    else match rest with
      | [] => none
      | b1 :: rest1 =>
        if !continues b1 then none
        else if 0xC0 ≤ b0 ∧ b0 < 0xE0 then
          (scalar 0x80 ((b0 - 0xC0) * 0x40 + (b1 - 0x80))).map fun c => (c, rest1)
        else match rest1 with
          | [] => none
          | b2 :: rest2 =>
            if !continues b2 then none
            else if 0xE0 ≤ b0 ∧ b0 < 0xF0 then
              (scalar 0x800 (((b0 - 0xE0) * 0x40 + (b1 - 0x80)) * 0x40 + (b2 - 0x80))).map fun c => (c, rest2)
            else match rest2 with
              | [] => none
              | b3 :: rest3 =>
                if !continues b3 then none
                else if 0xF0 ≤ b0 ∧ b0 < 0xF8 then
                  (scalar 0x10000 ((((b0 - 0xF0) * 0x40 + (b1 - 0x80)) * 0x40 + (b2 - 0x80)) * 0x40
                    + (b3 - 0x80))).map fun c => (c, rest3)
                else none

/-- A byte sequence decoded character by character, at most `fuel` of them. -/
def utf8DecodeLoop : Nat → List Nat → Option (List Char)
  | _, [] => some []
  | 0, _ :: _ => none
  | fuel + 1, bytes =>
    match utf8Next bytes with
    | none => none
    | some (c, rest) => (utf8DecodeLoop fuel rest).map (c :: ·)

/-- A text from its UTF-8 bytes, if they are valid. -/
def utf8Decode (bytes : List Nat) : Option (List Char) := utf8DecodeLoop bytes.length bytes

/-- The big-endian value of a byte sequence: the sum of `b_i * 256^(L-1-i)` (R230). -/
def bigEndian (bytes : List Nat) : Nat := bytes.foldl (fun acc b => acc * 256 + b) 0

/-- R230: `text_to_int(s)`. -/
def textToInt (text : List Char) : Nat := bigEndian (utf8Encode text)

/-- R231: the bytes of `n`, big-endian, `max(1, (bitlen(n) + 7) div 8)` of them. -/
def bytesOf (n : Nat) : List Nat :=
  let count := max 1 ((bitlen n + 7) / 8)
  (List.range count).map fun i => n / 256 ^ (count - 1 - i) % 256

/-- R231: `int_to_text(n)`. -/
def intToText (n : Nat) : Except HostError (List Char) :=
  match utf8Decode (bytesOf n) with
  | some text => .ok text
  | none => .error .encoding

/-- R232: `encrypt_text`: the "message too long for this key" test is made by the host first. -/
def encryptText (w : Nat) (pub : PublicKey) (text : List Char) : Except HostError Nat :=
  if pub.n ≤ textToInt text then .error .range else hostEncrypt w pub (textToInt text)

/-- R232: `decrypt_text`. -/
def decryptText (w : Nat) (priv : PrivateKey) (c : Nat) : Except HostError (List Char) :=
  match hostDecrypt w priv c with
  | .error e => .error e
  | .ok m => intToText m

end Sys2Proof.Machine
end

