-- ==== Sys2Proof/Safety.lean ====
section
/-! DEFINITION. Safety.lean: what claims about runs speak of: the invariants of the block (10_state.md R20, R26, R38;
60_exceptions.md R241; 00_scope.md R6) and the states a run reaches. -/

namespace Sys2Proof.Machine

/-- R26: "`BUSY = 1` implies `DONE = 0`, `ERR = 0` and `ERRCODE = 0`; `ERRCODE != 0` if and only if `ERR = 1`", and
60_exceptions.md R241: no code above 4 is ever produced. -/
abbrev Status.Consistent (st : Status) : Prop :=
  (st.busy = true → st.done = false ∧ st.err = false ∧ st.errCode = 0) ∧
  (st.errCode ≠ 0 ↔ st.err = true) ∧ st.errCode.toNat ≤ 4

/-- R38: the widths of the scratch registers, in a block of width `w`. -/
abbrev Scratch.Fits (w : Nat) (c : Scratch) : Prop :=
  c.x < 2 ^ w ∧ c.d < 2 ^ w ∧ c.wit < 2 ^ w ∧ c.nPrime < 2 ^ w ∧ c.rr < 2 ^ w ∧
  c.s < 2 ^ 16 ∧ c.k < 2 ^ 32 ∧ c.i < 2 ^ 16 ∧ c.j < 2 ^ 16

/-- R20: a wide register holds a natural below `2^W`. -/
abbrev State.WideFits (s : State) : Prop :=
  s.a < 2 ^ s.width ∧ s.b < 2 ^ s.width ∧ s.n < 2 ^ s.width ∧ s.r < 2 ^ s.width

/-- The invariant of the machine: a legal width (00_scope.md R6), registers of their widths (R20, R38), STATUS
consistent (R26), and the sequencer idle exactly when no command is pending (R27). -/
abbrev State.Inv (s : State) : Prop :=
  Config.LegalWidth s.width ∧ s.WideFits ∧ s.status.Consistent ∧ s.scratch.Fits s.width ∧
  (s.scratch.phase = .idle ↔ s.status.busy = false)

/-- The states a run reaches from a reset block of any legal width in any environment. -/
inductive Reachable : State → Prop where
  | start (w : Nat) (env : Env) : Config.LegalWidth w → Reachable { State.resetOf w with env := env }
  | next (s t : State) : Reachable s → step s = .next t → Reachable t

/-- The write transaction that the host makes next, if it makes one: `WR32 off, v` or `WR32 off, t`
(30_encoding.md R108). -/
def State.writesNext (s : State) : Option (Offset × Word) :=
  match s.env.schedule with
  | .write off v :: _ => some (off, v)
  | .writeLast off :: _ => some (off, s.env.last)
  | _ => none

/-- A write to this register is the host's next event. -/
def State.WritesReg (s : State) (g : Reg) : Prop := ∃ off v, s.writesNext = some (off, v) ∧ regAt s.width off = some g

/-- A reset is the next event: the reset input (70_reset_and_hazards.md R270) or a soft reset (R271). -/
def State.ResetsNext (s : State) : Prop :=
  s.env.schedule.head? = some .reset ∨
  ∃ off v, s.writesNext = some (off, v) ∧ regAt s.width off = some .ctrl ∧ v[1] = true

/-- A state without its hidden scratch registers: what the block and its host can ever see (10_state.md R38). -/
def State.visible (s : State) : State := { s with scratch := Scratch.reset }

end Sys2Proof.Machine
end

