-- ==== Sys2Proof/Certificates/Slice0/Obligations.lean ====
section
/-! DEFINITION. Obligations.lean: what is claimed of the model, for the provers. A free value (a witness answer not lined
up, the content of a scratch register) is universally quantified: no statement rests on one. -/

open Sys2Proof Sys2Proof.Machine

/-! ## Encoding (30_encoding.md) -/

/-- R104: the five command words, as the opcode map writes them, decode to their commands, and the encoder writes
them. -/
def Obligations.CommandWordsDecode : Prop :=
  decode 0x00000001#32 = .ok .modmul ∧ decode 0x00000002#32 = .ok .modexp ∧ decode 0x00000012#32 = .ok .modexpC ∧
  decode 0x00000003#32 = .ok .mrtest ∧ decode 0x00000004#32 = .ok .mrwit ∧
  encode .modmul = 0x00000001#32 ∧ encode .modexp = 0x00000002#32 ∧ encode .modexpC = 0x00000012#32 ∧
  encode .mrtest = 0x00000003#32 ∧ encode .mrwit = 0x00000004#32

/-- R104, R105: decoding and encoding are inverse to each other on all 32-bit words: a word decodes to a command exactly
when it is that command's word, and it decodes to some command exactly when it is `Legal`. -/
def Obligations.DecodeExactlyLegalWords : Prop :=
  (∀ (w : Word) (i : Instr), decode w = .ok i ↔ w = encode i) ∧
  (∀ w : Word, (∃ i, decode w = .ok i) ↔ legal w = true)

/-- R104: `Legal` holds exactly of the five words, each the word of its command; "Equivalently: `c[31:5] = 0` and
(`c[3:0]` in {1, 3, 4} and `c[4] = 0`, or `c[3:0] = 2`)"; every mask is all ones. -/
def Obligations.LegalWordsByFields : Prop :=
  (∀ c : Word, legal c = true ↔
    c = 0x00000001#32 ∨ c = 0x00000002#32 ∨ c = 0x00000012#32 ∨ c = 0x00000003#32 ∨ c = 0x00000004#32) ∧
  (∀ c : Word, legal c = true ↔
    c.toNat / 2 ^ 5 = 0 ∧
    (((c.toNat % 16 = 1 ∨ c.toNat % 16 = 3 ∨ c.toNat % 16 = 4) ∧ c.toNat / 16 % 2 = 0) ∨ c.toNat % 16 = 2)) ∧
  opcodeMap.map (fun row => (row.instr, row.pattern)) = [(.modmul, 0x00000001#32), (.modexp, 0x00000002#32),
    (.modexpC, 0x00000012#32), (.mrtest, 0x00000003#32), (.mrwit, 0x00000004#32)] ∧
  (∀ row ∈ opcodeMap, row.mask = 0xFFFFFFFF#32 ∧ decode row.pattern = .ok row.instr)

/-! ## Reset and invariants (10_state.md) -/

/-- R45, R6, R270: the values after reset of a block of every legal width, as registers and as the host reads them; `irq`
is low and the engine has no step; `State.reset` is the block of the default width. The scratch registers are not part of
the claim. -/
def Obligations.ResetValues : Prop :=
  (∀ w : Nat, Config.LegalWidth w →
    (State.resetOf w).a = 0 ∧ (State.resetOf w).b = 0 ∧ (State.resetOf w).n = 0 ∧ (State.resetOf w).r = 0 ∧
    (State.resetOf w).cmd = 0 ∧ (State.resetOf w).status.toWord = 0 ∧ (State.resetOf w).ctrl.toWord = 0 ∧
    (State.resetOf w).rounds = 0x0000000A#32 ∧ (State.resetOf w).width = w ∧
    (∃ v : Word, (State.resetOf w).busRead 0x0010 = (.ok, v) ∧ v.toNat = w) ∧
    (State.resetOf w).irq = false ∧ (State.resetOf w).engineTurn = false) ∧
  State.reset = State.resetOf 1024 ∧
  State.reset.a = 0 ∧ State.reset.b = 0 ∧ State.reset.n = 0 ∧ State.reset.r = 0 ∧ State.reset.cmd = 0 ∧
  State.reset.status.toWord = 0 ∧ State.reset.ctrl.toWord = 0 ∧ State.reset.rounds = 0x0000000A#32 ∧
  State.reset.width = 1024 ∧ State.reset.busRead 0x0010 = (.ok, 0x00000400#32) ∧
  State.reset.irq = false ∧ State.reset.engineTurn = false

/-- R270, R271, R272: a soft reset (a write to CTRL with bit 1 set, whatever its other bits) and the reset input leave
every register of the block at its reset value and no command pending, whatever the state was. Scratch is a free value;
the environment is not part of the block. -/
def Obligations.ResetFromEveryState : Prop :=
  (∀ (s : State) (v : Word), v[1] = true →
    s.busWrite 0x0008 v = (.ok, { State.resetOf s.width with
      scratch := s.freeScratch, env := { s.env with fills := s.env.fills + 1 } })) ∧
  (∀ (s : State) (rest : List Event), s.env.schedule = .reset :: rest →
    step s = .next { State.resetOf s.width with
      scratch := s.freeScratch, env := { s.env with schedule := rest, fills := s.env.fills + 1 } })

/-- The invariant holds of a reset block of every legal width in every environment. Its clause on the scratch registers
rests on the model's choice of their value in `State.reset` (log 7). -/
def Obligations.InvariantAtReset : Prop :=
  ∀ (w : Nat) (env : Env), Config.LegalWidth w → { State.resetOf w with env := env }.Inv

/-- Every step, of the engine or of the host, from every state with the invariant, keeps it: the width is legal, A, B, N,
R hold naturals below `2^W` (R20), STATUS is consistent (R26) with no code above 4 (R241), the scratch registers have
their widths (R38), and the sequencer is idle exactly when no command is pending (R27). -/
def Obligations.StepKeepsInvariant : Prop :=
  ∀ s t : State, s.Inv → step s = .next t → t.Inv

/-- R26: "Invariants that hold in every reachable state", and those of R20, R38 and R27, over every run from a reset block
of any legal width in any environment. Its start rests on log 7 as the invariant at reset does. -/
def Obligations.ReachableStatesKeepInvariant : Prop :=
  ∀ s : State, Reachable s → s.Inv

/-- R14: "There is no third outcome in hardware": every step of every state gives a next state, and a command whose
completion is enabled ends with BUSY 0 and DONE 1. -/
def Obligations.StepAlwaysGoesOn : Prop :=
  (∀ s : State, ∃ t, step s = .next t) ∧
  (∀ s : State, s.engineTurn = true → ∃ t, step s = .next t ∧ t.status.busy = false ∧ t.status.done = true)

/-! ## The step -/

/-- When it is the engine's turn and the pending word decodes to a command, the step is `exec` of that command, on the
state whose schedule has its `complete` used up. It is the engine's turn exactly when a command is pending (R40) and its
completion falls here: the schedule says so, the host has nothing left, or it waits for DONE (log 2, log 3). -/
def Obligations.StepRunsDecodedCommand : Prop :=
  (∀ (s : State) (i : Instr), s.engineTurn = true → decode s.cmd = .ok i → step s = exec i s.turnTaken) ∧
  (∀ (s : State) (rest : List Event), s.env.schedule = .complete :: rest →
    s.turnTaken = { s with env := { s.env with schedule := rest } }) ∧
  (∀ s : State, s.env.schedule.head? ≠ some .complete → s.turnTaken = s) ∧
  (∀ s : State, s.engineTurn = true ↔ s.status.busy = true ∧
    (s.env.schedule = [] ∨ s.env.schedule.head? = some .complete ∨
      (s.env.schedule.head? = some .wait ∧ s.status.done = false)))

/-- R41, R105, R242: the completion of every word that is not one of the five ends with `ERR_OPCODE` (code 3), wherever it
falls; R and PRIME and everything else keep their values. What `turnTaken` does to the schedule is in
StepRunsDecodedCommand. -/
def Obligations.IllegalWordEndsWithOpcodeError : Prop :=
  (∀ s : State, legal s.cmd = false → engineStep s = .next { s with
      status := { s.status with busy := false, done := true, err := true, errCode := 3 },
      scratch := s.freeScratch, env := { s.env with fills := s.env.fills + 1 } }) ∧
  (∀ s : State, s.engineTurn = true → legal s.cmd = false → step s = .next { s with
      status := { s.status with busy := false, done := true, err := true, errCode := 3 },
      scratch := s.freeScratch,
      env := { s.env with schedule := s.turnTaken.env.schedule, fills := s.env.fills + 1 } })

/-- R60 to R62: the host's read and write events are its two transactions: a read changes nothing of the block and its
answer is recorded; a write has the effect of `busWrite` and its response is recorded. -/
def Obligations.StepPerformsTransactions : Prop :=
  (∀ (s : State) (off : Offset) (rest : List Event), s.env.schedule = .read off :: rest →
    step s = .next { s with env := { s.env with
      schedule := rest, resp := (s.busRead off).1, last := (s.busRead off).2 } }) ∧
  (∀ (s : State) (off : Offset) (v : Word) (rest : List Event), s.env.schedule = .write off v :: rest →
    step s = .next { (s.busWrite off v).2 with env := { (s.busWrite off v).2.env with
      schedule := rest, resp := (s.busWrite off v).1 } }) ∧
  (∀ (s : State) (off : Offset) (rest : List Event), s.env.schedule = .writeLast off :: rest →
    step s = .next { (s.busWrite off s.env.last).2 with env := { (s.busWrite off s.env.last).2.env with
      schedule := rest, resp := (s.busWrite off s.env.last).1 } })

/-! ## The multiplier (40_modmul.md) -/

/-- R131: MODMUL, word 0x00000001. With `N >= 1` it writes `(A * B) mod N` to R, for A and B of any size; with `N = 0` it
ends with `ERR_MODULUS` (code 2) and R keeps its value. BUSY is cleared and DONE set (R40); nothing else changes. The
result always fits, `R < N < 2^W`, and there is no range-checked form: the word 0x00000011 is illegal. -/
def Obligations.ModmulCommand : Prop :=
  (∀ s : State, s.n ≠ 0 → exec .modmul s = .next { s with
      r := s.a * s.b % s.n,
      status := { s.status with busy := false, done := true },
      scratch := s.freeScratch, env := { s.env with fills := s.env.fills + 1 } }) ∧
  (∀ s : State, s.n = 0 → exec .modmul s = .next { s with
      status := { s.status with busy := false, done := true, err := true, errCode := 2 },
      scratch := s.freeScratch, env := { s.env with fills := s.env.fills + 1 } }) ∧
  (∀ s t : State, s.n ≠ 0 → s.n < 2 ^ s.width → exec .modmul s = .next t → t.r < s.n ∧ t.r < 2 ^ s.width) ∧
  decode 0x00000001#32 = .ok .modmul ∧ legal 0x00000011#32 = false

/-- R135: for odd `n` below the radix, `n'` is the unique `W`-bit value with `(n * n') mod 2^W = 2^W - 1`, and
`RR = 2^(2W) mod n`. -/
def Obligations.MontgomeryConstants : Prop :=
  ∀ w n : Nat, 1 ≤ w → n % 2 = 1 → n < 2 ^ w →
    (∀ v : Nat, v < 2 ^ w ∧ n * v % 2 ^ w = 2 ^ w - 1 ↔ v = montPrime w n) ∧ montRR w n = 2 ^ (2 * w) % n

/-- R136: for odd `n < 2^W` and `T < n * 2^W`, `REDC(T, n)` is below `n` and is `T * 2^(-W)` modulo `n`; and the obligation
it states: for `a', b' < n` the two-reduction product is `MulMod`. -/
def Obligations.MontgomeryReduction : Prop :=
  ∀ w n : Nat, 1 ≤ w → n % 2 = 1 → n < 2 ^ w →
    (∀ T : Nat, T < n * 2 ^ w →
      redc w (montPrime w n) n T < n ∧ redc w (montPrime w n) n T * 2 ^ w % n = T % n) ∧
    (∀ a b : Nat, a < n → b < n → montMulMod w (montPrime w n) (montRR w n) a b n = a * b % n)

/-- R137: for every `n >= 1` and `T < n^2`, Barrett reduction is `T mod n`, and its estimate `q3` "is never above the true
quotient and at most 2 below it", so that two corrective subtractions are enough. -/
def Obligations.BarrettReducesExactly : Prop :=
  ∀ n T : Nat, 1 ≤ n → T < n ^ 2 →
    barrettRed T n = T % n ∧
    (T / 2 ^ (bitlen n - 1)) * (2 ^ (2 * bitlen n) / n) / 2 ^ (bitlen n + 1) ≤ T / n ∧
    T / n ≤ (T / 2 ^ (bitlen n - 1)) * (2 ^ (2 * bitlen n) / n) / 2 ^ (bitlen n + 1) + 2

/-- R133, R134: whichever path the parity of `n` selects, the unit computes exactly `(a * b) mod n`, for operands of any
size. -/
def Obligations.UnitComputesMulMod : Prop :=
  ∀ w n a b : Nat, 1 ≤ n → n < 2 ^ w → unitMulMod w (montPrime w n) (montRR w n) a b n = a * b % n

/-! ## The exponentiation engine (41_modexp.md) -/

/-- R151: "For every `a`, `b`, `n >= 1`: `SqMul(a, b, n) = ModExp(a, b, n)`", with the power of R8 (`0^0 = 1`), and the
invariant that shows it: from `x = a^(b div 2^i) mod n`, the iterations for the bits below `i` give `a^b mod n`. -/
def Obligations.SquareAndMultiplyIsPower : Prop :=
  ∀ a b n : Nat, 1 ≤ n → sqMul a b n = a ^ b % n ∧ ∀ i : Nat, sqMulLoop a b n i (a ^ (b / 2 ^ i) % n) = a ^ b % n

/-- R156, the obligation it states: keeping values in Montgomery form gives `ModExp`, for every odd `n < 2^W`. -/
def Obligations.MontgomeryFormPowerIsModExp : Prop :=
  ∀ w a b n : Nat, 1 ≤ w → n % 2 = 1 → n < 2 ^ w → sqMulMont w a b n = a ^ b % n

/-- R152: MODEXP, word 0x00000002. With `N >= 1` it writes `A^B mod N` to R, for A of any size (`0^0 = 1`); with `N = 0` it
ends with `ERR_MODULUS` (code 2) and R keeps its value. BUSY is cleared and DONE set (R40); nothing else changes. -/
def Obligations.ModexpCommand : Prop :=
  (∀ s : State, s.n ≠ 0 → exec .modexp s = .next { s with
      r := s.a ^ s.b % s.n,
      status := { s.status with busy := false, done := true },
      scratch := s.freeScratch, env := { s.env with fills := s.env.fills + 1 } }) ∧
  (∀ s : State, s.n = 0 → exec .modexp s = .next { s with
      status := { s.status with busy := false, done := true, err := true, errCode := 2 },
      scratch := s.freeScratch, env := { s.env with fills := s.env.fills + 1 } }) ∧
  decode 0x00000002#32 = .ok .modexp

/-- R153: MODEXP.C, word 0x00000012. With `A < N` it writes `A^B mod N` to R; with `A >= N`, `N = 0` among them, it ends
with `ERR_RANGE` (code 1) and R keeps its value. BUSY is cleared and DONE set (R40); nothing else changes. -/
def Obligations.ModexpCheckedCommand : Prop :=
  (∀ s : State, s.a < s.n → exec .modexpC s = .next { s with
      r := s.a ^ s.b % s.n,
      status := { s.status with busy := false, done := true },
      scratch := s.freeScratch, env := { s.env with fills := s.env.fills + 1 } }) ∧
  (∀ s : State, s.n ≤ s.a → exec .modexpC s = .next { s with
      status := { s.status with busy := false, done := true, err := true, errCode := 1 },
      scratch := s.freeScratch, env := { s.env with fills := s.env.fills + 1 } }) ∧
  decode 0x00000012#32 = .ok .modexpC

/-! ## The Miller-Rabin tester (42_millerrabin.md) -/

/-- R173: for odd `n >= 5`, `Decompose(n)` is "the unique pair with `n - 1 = 2^r * d`, `d` odd"; `r >= 1`, `d >= 1` and
`r <= bitlen(n) - 1 <= W - 1`. -/
def Obligations.DecomposeIsUniqueSplit : Prop :=
  ∀ n : Nat, n % 2 = 1 → 5 ≤ n →
    (∀ r d : Nat, n - 1 = 2 ^ r * d ∧ d % 2 = 1 ↔ (r, d) = decompose n) ∧
    1 ≤ (decompose n).1 ∧ 1 ≤ (decompose n).2 ∧ (decompose n).1 ≤ bitlen n - 1 ∧
    ∀ w : Nat, n < 2 ^ w → bitlen n - 1 ≤ w - 1

/-- R175: for odd `n >= 5` with `n - 1 = 2^r * d`, `d` odd, a witness passes exactly when `a^d mod n` is 1 or one of
`a^d, a^(2d), ..., a^(2^(r-1) d)` is `n - 1` modulo `n`. -/
def Obligations.TrialPassesExactlyWhen : Prop :=
  ∀ n a r d : Nat, n % 2 = 1 → 5 ≤ n → n - 1 = 2 ^ r * d → d % 2 = 1 →
    (trial n a = true ↔ a ^ d % n = 1 ∨ ∃ j < r, a ^ (2 ^ j * d) % n = n - 1)

/-- R171, for every number of rounds and every sequence of draws in range: (a) if the verdict is 0 then `n` is not prime;
(b) if `n` is prime the verdict is 1; and a composite, 25, with draws that give verdict 1 for any number of rounds. -/
def Obligations.PrimeAlwaysAccepted : Prop :=
  (∀ (n rounds : Nat) (w : Nat → Nat), (∀ k < rounds, 2 ≤ w k ∧ w k ≤ n - 2) →
    ((isPrime n rounds w).1 = false → ¬ n.Prime) ∧ (n.Prime → (isPrime n rounds w).1 = true)) ∧
  (∀ rounds : Nat, (isPrime 25 rounds fun _ => 7).1 = true) ∧ ¬ Nat.Prime 25

/-- R171 on the block: MRTEST of a prime N always ends with PRIME 1, and one that ends with PRIME 0 had an N that is not
prime, whatever the witness source answers; it never ends with an error. -/
def Obligations.MrtestNeverRejectsPrime : Prop :=
  ∀ s : State, ∃ t, exec .mrtest s = .next t ∧ t.status.err = s.status.err ∧
    (s.n.Prime → t.status.prime = true) ∧ (t.status.prime = false → ¬ s.n.Prime)

/-- R178: MRTEST, word 0x00000003: PRIME becomes the verdict of `IsPrime(N, ROUNDS, draws)`, the draws it used are used up,
BUSY is cleared and DONE set (R40); A, B and R are neither read nor written, no error is raised, nothing else changes. -/
def Obligations.MrtestCommand : Prop :=
  (∀ s : State, exec .mrtest s = .next { s with
      status := { s.status with busy := false, done := true, prime := (isPrime s.n s.rounds.toNat s.draw).1 },
      scratch := s.freeScratch,
      env := { s.env with answers := s.env.answers.drop (isPrime s.n s.rounds.toNat s.draw).2,
                          drawn := s.env.drawn + (isPrime s.n s.rounds.toNat s.draw).2,
                          fills := s.env.fills + 1 } }) ∧
  decode 0x00000003#32 = .ok .mrtest

/-- R172, R180: what MRTEST does when the prefilter decides (N below 2, N 2 or 3, N even) and when ROUNDS is 0: it
completes with the verdict of R180's table, no draw made, nothing else changed. -/
def Obligations.MrtestDecidedWithoutDraw : Prop :=
  ∀ (s : State) (p : Bool),
    ((s.n < 2 ∧ p = false) ∨ ((s.n = 2 ∨ s.n = 3) ∧ p = true) ∨ (4 ≤ s.n ∧ s.n % 2 = 0 ∧ p = false) ∨
      (5 ≤ s.n ∧ s.n % 2 = 1 ∧ s.rounds = 0 ∧ p = true)) →
    exec .mrtest s = .next { s with
      status := { s.status with busy := false, done := true, prime := p },
      scratch := s.freeScratch, env := { s.env with fills := s.env.fills + 1 } }

/-- R177, R178: MRTEST of an odd `N >= 5`: if every one of the ROUNDS trials passes, the verdict is 1 and ROUNDS draws
are used; if trial `k` is the first to fail, the verdict is 0 and `k + 1` draws are used. Nothing else changes. -/
def Obligations.MrtestRunsItsTrials : Prop :=
  ∀ s : State, 5 ≤ s.n → s.n % 2 = 1 →
    ((∀ k < s.rounds.toNat, trial s.n (s.draw k) = true) →
      exec .mrtest s = .next { s with
        status := { s.status with busy := false, done := true, prime := true },
        scratch := s.freeScratch,
        env := { s.env with answers := s.env.answers.drop s.rounds.toNat, drawn := s.env.drawn + s.rounds.toNat,
                            fills := s.env.fills + 1 } }) ∧
    (∀ k < s.rounds.toNat, (∀ j < k, trial s.n (s.draw j) = true) → trial s.n (s.draw k) = false →
      exec .mrtest s = .next { s with
        status := { s.status with busy := false, done := true, prime := false },
        scratch := s.freeScratch,
        env := { s.env with answers := s.env.answers.drop (k + 1), drawn := s.env.drawn + (k + 1),
                            fills := s.env.fills + 1 } })

/-- R179: MRWIT, word 0x00000004. It completes with the prefilter's verdict, whatever A holds; for an odd `N >= 5` with the
verdict of the trial of A when `2 <= A <= N - 2`, and with `ERR_WITNESS` (code 4) when A is outside, PRIME and R then
keeping their values. No draw is made and nothing else changes. Whenever it does not raise it is `IsPrime(n, 1, [a])`. -/
def Obligations.MrwitCommand : Prop :=
  (∀ (s : State) (p : Bool),
    ((s.n < 2 ∧ p = false) ∨ ((s.n = 2 ∨ s.n = 3) ∧ p = true) ∨ (4 ≤ s.n ∧ s.n % 2 = 0 ∧ p = false) ∨
      (5 ≤ s.n ∧ s.n % 2 = 1 ∧ 2 ≤ s.a ∧ s.a ≤ s.n - 2 ∧ p = trial s.n s.a)) →
    exec .mrwit s = .next { s with
      status := { s.status with busy := false, done := true, prime := p },
      scratch := s.freeScratch, env := { s.env with fills := s.env.fills + 1 } }) ∧
  (∀ s : State, 5 ≤ s.n → s.n % 2 = 1 → (s.a < 2 ∨ s.n - 2 < s.a) → exec .mrwit s = .next { s with
      status := { s.status with busy := false, done := true, err := true, errCode := 4 },
      scratch := s.freeScratch, env := { s.env with fills := s.env.fills + 1 } }) ∧
  (∀ n a : Nat, mrwitOut n a ≠ .err .witness → mrwitOut n a = .verdict (isPrime n 1 fun _ => a).1) ∧
  decode 0x00000004#32 = .ok .mrwit

/-! ## Frames and whole-machine rules -/

/-- R21, R22, R40: MODMUL, MODEXP and MODEXP.C complete in every state and write nothing but R and STATUS: A, B, N, CMD,
ROUNDS, CTRL, PRIME, BUSYERR keep their values, no draw is used, and every offset but STATUS and the words of R reads as
before; ERR and ERRCODE change only when R does not. -/
def Obligations.ArithmeticCommandsFrame : Prop :=
  ∀ (s : State) (i : Instr), (i = .modmul ∨ i = .modexp ∨ i = .modexpC) → ∃ t, exec i s = .next t ∧
    t.width = s.width ∧ t.a = s.a ∧ t.b = s.b ∧ t.n = s.n ∧ t.cmd = s.cmd ∧ t.rounds = s.rounds ∧ t.ctrl = s.ctrl ∧
    t.status.prime = s.status.prime ∧ t.status.busyErr = s.status.busyErr ∧
    ((t.status.err = s.status.err ∧ t.status.errCode = s.status.errCode) ∨ t.r = s.r) ∧
    t.env = { s.env with fills := s.env.fills + 1 } ∧
    (∀ off : Offset, regAt s.width off ≠ some .status → (∀ j, regAt s.width off ≠ some (.word .R j)) →
      t.busRead off = s.busRead off)

/-- R21, R23, R40: MRTEST and MRWIT complete in every state and write nothing but STATUS: A, B, N, R, CMD, ROUNDS, CTRL,
BUSYERR keep their values and every offset but STATUS reads as before; MRTEST changes neither ERR nor ERRCODE, MRWIT
changes them only when PRIME is unchanged, and MRWIT uses no draw. -/
def Obligations.TesterCommandsFrame : Prop :=
  ∀ (s : State) (i : Instr), (i = .mrtest ∨ i = .mrwit) → ∃ t, exec i s = .next t ∧
    t.width = s.width ∧ t.a = s.a ∧ t.b = s.b ∧ t.n = s.n ∧ t.r = s.r ∧ t.cmd = s.cmd ∧ t.rounds = s.rounds ∧
    t.ctrl = s.ctrl ∧ t.status.busyErr = s.status.busyErr ∧
    ((t.status.err = s.status.err ∧ t.status.errCode = s.status.errCode) ∨
      (i = .mrwit ∧ t.status.prime = s.status.prime)) ∧
    t.env.schedule = s.env.schedule ∧ t.env.last = s.env.last ∧ t.env.resp = s.env.resp ∧
    t.env.failed = s.env.failed ∧ (i = .mrwit → t.env = { s.env with fills := s.env.fills + 1 }) ∧
    (∀ off : Offset, regAt s.width off ≠ some .status → t.busRead off = s.busRead off)

/-- R21: a register a command does not read has no influence on it: MRTEST ignores A, B and R; MRWIT ignores B, R and
ROUNDS; MODMUL, MODEXP and MODEXP.C ignore ROUNDS and R; no command reads CTRL or any STATUS field (R31). The completion
of a state that differs there sets the same R, PRIME and error, or sets none of them: what it does not write keeps, in
each of the two, the value it had there. -/
def Obligations.UnreadRegistersHaveNoInfluence : Prop :=
  (∀ (s : State) (a b r : Nat), ∃ t u, exec .mrtest s = .next t ∧ exec .mrtest { s with a := a, b := b, r := r } = .next u ∧
    u = { t with a := a, b := b, r := r }) ∧
  (∀ (s : State) (b r : Nat) (rounds : Word), ∃ t u, exec .mrwit s = .next t ∧
    exec .mrwit { s with b := b, r := r, rounds := rounds } = .next u ∧ u = { t with b := b, r := r, rounds := rounds }) ∧
  (∀ (s : State) (i : Instr) (rounds : Word), (i = .modmul ∨ i = .modexp ∨ i = .modexpC) → ∃ t u, exec i s = .next t ∧
    exec i { s with rounds := rounds } = .next u ∧ u = { t with rounds := rounds }) ∧
  (∀ (s : State) (i : Instr) (ctrl : Ctrl) (busyErr : Bool), ∃ t u, exec i s = .next t ∧
    exec i { s with ctrl := ctrl, status := { s.status with busyErr := busyErr } } = .next u ∧
    u = { t with ctrl := ctrl, status := { t.status with busyErr := busyErr } }) ∧
  (∀ (s : State) (i : Instr) (r : Nat) (st : Status) (ctrl : Ctrl), ∃ t u, exec i s = .next t ∧
    exec i { s with r := r, status := st, ctrl := ctrl } = .next u ∧
    u = { t with r := u.r, status := u.status, ctrl := ctrl } ∧
    (u.r = t.r ∨ (t.r = s.r ∧ u.r = r)) ∧
    (u.status.prime = t.status.prime ∨ (t.status.prime = s.status.prime ∧ u.status.prime = st.prime)) ∧
    ((u.status.err = t.status.err ∧ u.status.errCode = t.status.errCode) ∨
      (t.status.err = s.status.err ∧ t.status.errCode = s.status.errCode ∧
        u.status.err = st.err ∧ u.status.errCode = st.errCode)) ∧
    u.status.busy = t.status.busy ∧ u.status.done = t.status.done ∧
    t.status.busyErr = s.status.busyErr ∧ u.status.busyErr = st.busyErr)

/-- R22, R26, R23, over every step: A, B, N are written only by host writes to their words while not busy and by reset,
never by the engine; R only by the completion of MODMUL, MODEXP or MODEXP.C and by reset; PRIME only by the completion of
MRTEST or MRWIT and by reset; CMD and ROUNDS only by host writes while not busy and by reset; CTRL only by a host write and
by reset; WIDTH never. So the operands of a pending command are those it was accepted with (R39). -/
def Obligations.OnlyTheirWritersChangeRegisters : Prop :=
  ∀ s t : State, step s = .next t →
    (t.a ≠ s.a → s.engineTurn = false ∧ (s.ResetsNext ∨ s.status.busy = false ∧ ∃ i, s.WritesReg (.word .A i))) ∧
    (t.b ≠ s.b → s.engineTurn = false ∧ (s.ResetsNext ∨ s.status.busy = false ∧ ∃ i, s.WritesReg (.word .B i))) ∧
    (t.n ≠ s.n → s.engineTurn = false ∧ (s.ResetsNext ∨ s.status.busy = false ∧ ∃ i, s.WritesReg (.word .N i))) ∧
    (t.r ≠ s.r → s.ResetsNext ∨ (s.engineTurn = true ∧
      (decode s.cmd = .ok .modmul ∨ decode s.cmd = .ok .modexp ∨ decode s.cmd = .ok .modexpC))) ∧
    (t.status.prime ≠ s.status.prime → s.ResetsNext ∨ (s.engineTurn = true ∧
      (decode s.cmd = .ok .mrtest ∨ decode s.cmd = .ok .mrwit))) ∧
    (t.cmd ≠ s.cmd → s.ResetsNext ∨ s.status.busy = false ∧ s.WritesReg .cmd) ∧
    (t.rounds ≠ s.rounds → s.ResetsNext ∨ s.status.busy = false ∧ s.WritesReg .rounds) ∧
    (t.ctrl ≠ s.ctrl → s.ResetsNext ∨ s.WritesReg .ctrl) ∧ t.width = s.width

/-- R24, R26, over every step: BUSY is set only by a write to CMD while not busy, "the only way a command starts"; it is
cleared only by the engine's completion and by reset; BUSYERR is set only by a write while busy and is not cleared by a
completion or an acceptance. -/
def Obligations.OnlyCmdWriteStartsCommand : Prop :=
  ∀ s t : State, step s = .next t →
    (s.status.busy = false → t.status.busy = true → s.WritesReg .cmd) ∧
    (s.status.busy = true → t.status.busy = false → s.engineTurn = true ∨ s.ResetsNext) ∧
    (s.status.busyErr = false → t.status.busyErr = true → s.status.busy = true ∧ ∃ g, s.WritesReg g ∧ g.locked = true) ∧
    (s.status.busyErr = true → t.status.busyErr = false → s.ResetsNext ∨ s.WritesReg .status)

/-- R244, over every pending word: when a completion raises ERR it "does exactly" this: ERR 1, ERRCODE one of the codes 1
to 4 (R241), BUSY 0, DONE 1, and every other register, R and PRIME among them, keeps its value; `irq` rises if IE is set.
Scratch is a free value (R38). -/
def Obligations.ErrorsHaveNoPartialEffect : Prop :=
  ∀ s t : State, engineStep s = .next t → s.status.err = false → t.status.err = true →
    ∃ code : BitVec 4, 1 ≤ code.toNat ∧ code.toNat ≤ 4 ∧ t = { s with
      status := { s.status with busy := false, done := true, err := true, errCode := code },
      scratch := s.freeScratch, env := { s.env with fills := s.env.fills + 1 } } ∧
    (s.ctrl.ie = true → t.irq = true)

/-- R38: no step's result depends on what the scratch registers hold: states that differ in nothing else step to states
that differ in nothing else, and every offset reads the same. -/
def Obligations.ScratchNeverObserved : Prop :=
  ∀ (s : State) (c : Scratch), ∃ t u, step s = .next t ∧ step { s with scratch := c } = .next u ∧
    t.visible = u.visible ∧ ∀ off : Offset, t.busRead off = u.busRead off

/-- R182, R38: run as a sequence of phases over the scratch registers, with every product made by the Montgomery and
Barrett unit, every pending word reaches exactly the state that the one completion step gives, with the same draws. R182
gives the phases of MRTEST and MRWIT; those of every other word are the model's choice (log 15). -/
def Obligations.SequencerReachesCompletion : Prop :=
  ∀ s : State, s.Inv → s.status.busy = true → s.scratch.phase = .pre →
    ∃ k t, engineStep s = .next t ∧ seqRun k s = t

/-! ## The register interface (20_memory.md) -/

/-- R64, R67, R77: the address map, for every legal width: the only mapped offsets are the five of the first window and
`NW` words in each of the four register windows; every other offset, aligned or not, is unmapped. -/
def Obligations.AddressMap : Prop :=
  ∀ (w : Nat) (off : Offset) (g : Reg), Config.LegalWidth w → (regAt w off = some g ↔
    (off.toNat = 0x0000 ∧ g = .cmd) ∨ (off.toNat = 0x0004 ∧ g = .status) ∨ (off.toNat = 0x0008 ∧ g = .ctrl) ∨
    (off.toNat = 0x000C ∧ g = .rounds) ∨ (off.toNat = 0x0010 ∧ g = .width) ∨
    ∃ i < w / 32, (off.toNat = 0x1000 + 4 * i ∧ g = .word .A i) ∨ (off.toNat = 0x2000 + 4 * i ∧ g = .word .B i) ∨
      (off.toNat = 0x3000 + 4 * i ∧ g = .word .N i) ∨ (off.toNat = 0x4000 + 4 * i ∧ g = .word .R i))

/-- R67, R77: a misaligned or unmapped offset, among them the words of a window at and above `4 * NW`: a read returns
`(ERROR, 0)`, a write returns `ERROR`, and nothing changes. -/
def Obligations.UnmappedAccessesDoNothing : Prop :=
  ∀ (s : State) (off : Offset) (v : Word), Config.LegalWidth s.width →
    (off.toNat % 4 ≠ 0 ∨ (0x0014 ≤ off.toNat ∧ off.toNat < 0x1000) ∨ 0x5000 ≤ off.toNat ∨
      (0x1000 ≤ off.toNat ∧ 4 * (s.width / 32) ≤ off.toNat % 0x1000)) →
    s.busRead off = (.error, 0) ∧ s.busWrite off v = (.error, s)

/-- R25: STATUS as the host reads it: BUSY, DONE, ERR, PRIME, BUSYERR in bits 0 to 4, ERRCODE in bits 11:8, reserved bits
0; CTRL (R28): IE in bit 0, every other bit 0; CMD (R24): the word last stored, all 32 bits; WIDTH (R30): W, at every
legal width and in every state. -/
def Obligations.StatusAndControlWords : Prop :=
  (∀ s : State, s.busRead 0x0004 = (.ok, s.status.toWord) ∧ s.busRead 0x0008 = (.ok, s.ctrl.toWord)) ∧
  (∀ s : State, s.busRead 0x0000 = (.ok, s.cmd)) ∧
  (∀ s : State, Config.LegalWidth s.width → ∃ v : Word, s.busRead 0x0010 = (.ok, v) ∧ v.toNat = s.width) ∧
  (∀ st : Status, st.toWord[0] = st.busy ∧ st.toWord[1] = st.done ∧ st.toWord[2] = st.err ∧ st.toWord[3] = st.prime ∧
    st.toWord[4] = st.busyErr ∧ st.toWord.extractLsb' 5 3 = 0 ∧ st.toWord.extractLsb' 8 4 = st.errCode ∧
    st.toWord.extractLsb' 12 20 = 0) ∧
  (∀ c : Ctrl, c.toWord[0] = c.ie ∧ c.toWord.extractLsb' 1 31 = 0)

/-- R70: a write to CMD while not busy is accepted, whatever the word and whatever DONE and ERR are: CMD takes it, BUSY is
set, DONE, ERR and ERRCODE are cleared, and nothing else of the block changes but the hidden sequencer's position (R27);
while busy it is discarded (R76). -/
def Obligations.CmdWriteIsAccepted : Prop :=
  (∀ (s : State) (v : Word), s.status.busy = false → s.busWrite 0x0000 v = (.ok, { s with
    cmd := v,
    status := { s.status with busy := true, done := false, err := false, errCode := 0 },
    scratch := { s.scratch with phase := .pre } })) ∧
  (∀ (s : State) (v : Word), s.status.busy = true →
    s.busWrite 0x0000 v = (.ok, { s with status := { s.status with busyErr := true } }))

/-- R71: a write to STATUS, at any time, clears DONE, ERR with ERRCODE, and BUSYERR where it has a 1; every other bit is
ignored, so BUSY and PRIME keep their values; clearing DONE lowers `irq`. -/
def Obligations.StatusWriteClears : Prop :=
  (∀ (s : State) (v : Word), s.busWrite 0x0004 v = (.ok, { s with status :=
    { busy := s.status.busy, prime := s.status.prime,
      done := if v[1] then false else s.status.done,
      err := if v[2] then false else s.status.err,
      errCode := if v[2] then 0 else s.status.errCode,
      busyErr := if v[4] then false else s.status.busyErr } })) ∧
  (∀ (s : State) (v : Word), v[1] = true → (s.busWrite 0x0004 v).2.irq = false)

/-- R72: a write to CTRL, busy or not: with bit 1 set it is a soft reset and bit 0 is discarded; with bit 1 clear it sets
IE from bit 0 and does nothing else. -/
def Obligations.CtrlWrite : Prop :=
  (∀ (s : State) (v : Word), v[1] = true → s.busWrite 0x0008 v = (.ok, s.resetBlock) ∧ s.resetBlock.ctrl.ie = false) ∧
  (∀ (s : State) (v : Word), v[1] = false → s.busWrite 0x0008 v = (.ok, { s with ctrl := { ie := v[0] } }))

/-- R73: a write to ROUNDS: discarded while busy (R76), otherwise all 32 bits are stored. -/
def Obligations.RoundsWrite : Prop :=
  (∀ (s : State) (v : Word), s.status.busy = false → s.busWrite 0x000C v = (.ok, { s with rounds := v })) ∧
  (∀ (s : State) (v : Word), s.status.busy = true →
    s.busWrite 0x000C v = (.ok, { s with status := { s.status with busyErr := true } })) ∧
  (∀ s : State, s.busRead 0x000C = (.ok, s.rounds))

/-- R74: a write to word `i` of A, B or N while not busy: bits `32*i + 31 : 32*i` of the register become `v` and its other
bits are unchanged; while busy it is discarded (R76). -/
def Obligations.WordWriteSetsItsBits : Prop :=
  (∀ (s : State) (q : Wide) (i : Nat) (off : Offset) (v : Word), s.status.busy = false → q ≠ .R →
    regAt s.width off = some (.word q i) →
    ∃ z, s.busWrite off v = (.ok, s.setWide q z) ∧
      ∀ j, z.testBit j = if 32 * i ≤ j ∧ j < 32 * i + 32 then v.getLsbD (j - 32 * i) else (s.wide q).testBit j) ∧
  (∀ (s : State) (q : Wide) (i : Nat) (off : Offset) (v : Word), s.status.busy = true → q ≠ .R →
    regAt s.width off = some (.word q i) →
    s.busWrite off v = (.ok, { s with status := { s.status with busyErr := true } }))

/-- R80 (a), R65: after a write to a word of A, B or N while not busy, that word reads back, and every other mapped
offset reads as before. -/
def Obligations.WordWriteReadsBack : Prop :=
  ∀ (s : State) (q : Wide) (i : Nat) (off : Offset) (v : Word), s.status.busy = false → q ≠ .R →
    regAt s.width off = some (.word q i) →
    (s.busWrite off v).2.busRead off = (.ok, v) ∧
    ∀ other : Offset, other ≠ off → (s.busWrite off v).2.busRead other = s.busRead other

/-- R65: word `i` of a wide register is its bits `32*i + 31 : 32*i`, the word at the lowest offset the least significant,
and the register is the sum of its words: `Q = sum over i < NW of word_i * 2^(32*i)`. -/
def Obligations.WideValueIsSumOfWords : Prop :=
  (∀ (s : State) (q : Wide) (i : Nat), Config.LegalWidth s.width → i < s.width / 32 →
    ∃ z : Word, s.busRead (BitVec.ofNat 16 (q.base + 4 * i)) = (.ok, z) ∧
      ∀ j < 32, z.getLsbD j = (s.wide q).testBit (32 * i + j)) ∧
  ∀ w q : Nat, Config.LegalWidth w → q < 2 ^ w →
    q = ((List.range (w / 32)).map fun i => (wordGet q i).toNat * 2 ^ (32 * i)).sum

/-- R75: a write to WIDTH or to a word of R: `OK`, no state changes, busy or not. -/
def Obligations.ReadOnlyWritesIgnored : Prop :=
  (∀ (s : State) (v : Word), s.busWrite 0x0010 v = (.ok, s)) ∧
  (∀ (s : State) (off : Offset) (i : Nat) (v : Word), regAt s.width off = some (.word .R i) →
    s.busWrite off v = (.ok, s))

/-- R76: while busy, a write to CMD, ROUNDS or any mapped word of A, B, N is discarded: `OK`, BUSYERR set, the register
and everything else unchanged; a read, of R among them, gives what it gave before the write. -/
def Obligations.LockedWritesDiscarded : Prop :=
  ∀ (s : State) (off : Offset) (v : Word), s.status.busy = true →
    (regAt s.width off = some .cmd ∨ regAt s.width off = some .rounds ∨
      ∃ i, regAt s.width off = some (.word .A i) ∨ regAt s.width off = some (.word .B i) ∨
        regAt s.width off = some (.word .N i)) →
    s.busWrite off v = (.ok, { s with status := { s.status with busyErr := true } }) ∧
    ∀ other : Offset, regAt s.width other ≠ some .status → (s.busWrite off v).2.busRead other = s.busRead other

/-- R32, R248: `irq = CTRL.IE and STATUS.DONE`; an acceptance lowers it, and with IE set every completion, of success or
error, of a command or of an illegal word, raises it. -/
def Obligations.InterruptLevel : Prop :=
  (∀ s : State, s.irq = true ↔ s.ctrl.ie = true ∧ s.status.done = true) ∧
  (∀ (s : State) (v : Word), (s.accept v).irq = false) ∧
  (∀ (s : State) (i : Instr), s.ctrl.ie = true → ∃ t, exec i s = .next t ∧ t.irq = true) ∧
  (∀ (s : State) (i : Instr), s.ctrl.ie = false → ∃ t, exec i s = .next t ∧ t.irq = false) ∧
  (∀ s : State, ∃ t, engineStep s = .next t ∧ t.irq = s.ctrl.ie)

/-- R109, R80 (b): the `NW` writes of `LDA v` (`LDB v`, `LDN v`), from an idle block, set the whole register to `v` and
change nothing else, whatever the rest of the schedule is. -/
def Obligations.LoadStatementSetsRegister : Prop :=
  ∀ (s : State) (q : Wide) (v : Nat) (rest : List Event), Config.LegalWidth s.width → s.wide q < 2 ^ s.width →
    s.status.busy = false → q ≠ .R → v < 2 ^ s.width → s.env.schedule = loadWide s.width q v ++ rest →
    Host.Core.run Sys2Proof.core (s.width / 32) s =
      .next { s.setWide q v with env := { s.env with schedule := rest, resp := .ok } }

/-- R108, EXPECTW: the `NW` reads, busy or not, find a failure exactly when the register's value is not `v`, whatever the
size of `v`; a failure found earlier stays (log 14), and nothing of the block changes. -/
def Obligations.ExpectStatementChecksRegister : Prop :=
  ∀ (s : State) (q : Wide) (v : Nat) (rest : List Event), Config.LegalWidth s.width → s.wide q < 2 ^ s.width →
    s.env.schedule = expectWide s.width q v ++ rest →
    Host.Core.run Sys2Proof.core (2 * (s.width / 32)) s = .next { s with env := { s.env with
      schedule := rest, resp := .ok, last := wordGet (s.wide q) (s.width / 32 - 1),
      failed := s.env.failed || decide (s.wide q ≠ v) } }

/-! ## The software around the block (43_host_procedures.md) -/

/-- R202: the host's Euclid computes the greatest common divisor. -/
def Obligations.HostGcdIsGcd : Prop := ∀ a b : Nat, hostGcd a b = Nat.gcd a b

/-- R205, R206: `modular_inverse`: 0 for `phi = 1`; for `phi >= 2` with `gcd(e, phi) = 1` the one `d` in `[0, phi)` with
`(d * e) mod phi = 1`; the arithmetic precondition error otherwise. -/
def Obligations.ModularInverseContract : Prop :=
  ∀ e phi : Nat,
    (phi = 1 → modularInverse e phi = .ok 0) ∧
    (2 ≤ phi → Nat.gcd e phi = 1 →
      ∀ d : Nat, modularInverse e phi = .ok d ↔ d < phi ∧ d * e % phi = 1) ∧
    (phi ≠ 1 → Nat.gcd e phi ≠ 1 → modularInverse e phi = .error .arithmeticPrecondition) ∧
    (phi = 0 → modularInverse e phi = .error .arithmeticPrecondition)

/-- R211: every candidate of `random_prime` is odd and exactly `bits` long. -/
def Obligations.CandidateHasItsBitLength : Prop :=
  ∀ bits raw : Nat, 1 ≤ bits → bitlen (candidate bits raw) = bits ∧ candidate bits raw % 2 = 1

/-- R220: for every `p`, `q` with `(p - 1)(q - 1) >= 2` the key generator ends with a pair: `n = p * q`, `e` coprime with
`phi`, and `(d * e) mod phi = 1`. -/
def Obligations.KeyExponentsAreInverse : Prop :=
  ∀ p q : Nat, 2 ≤ (p - 1) * (q - 1) → ∃ e d, keypairOf p q = .ok (⟨p * q, e⟩, ⟨p * q, d⟩) ∧
    Nat.gcd e ((p - 1) * (q - 1)) = 1 ∧ d * e % ((p - 1) * (q - 1)) = 1

/-- R155, R225, the source's round trip: for a key pair made from two distinct primes as R220 says, that fits the
registers, `decrypt` of what `encrypt` makes of any `m < n` is `m` (the software calls the commands' value functions,
log 16); and on the block, MODEXP.C with `m` in A, then MODEXP of its result, moved from R to A, with `d` in B, leaves `m`
in R. -/
def Obligations.RsaRoundTrip : Prop :=
  ∀ (w p q m : Nat) (pub : PublicKey) (priv : PrivateKey), p.Prime → q.Prime → p ≠ q →
    keypairOf p q = .ok (pub, priv) → p * q < 2 ^ w → pub.e < 2 ^ w → m < p * q →
    (∃ c, hostEncrypt w pub m = .ok c ∧ hostDecrypt w priv c = .ok m) ∧
    ∀ s : State, s.n = p * q → s.a = m → s.b = pub.e → ∃ t u, exec .modexpC s = .next t ∧
      exec .modexp { t with a := t.r, b := priv.d } = .next u ∧ u.r = m

/-- R225, R235: `encrypt` fails with the range error for a negative `m`, by the host, and for an `m` that fits and is not
below `n`, `n = 0` among them; otherwise it is `m^e mod n`. `decrypt` is `c^d mod n`, and the modulus error for `n = 0`. That
a call with a value of `2^W` or more is answered `outsideDomain` is the model's choice of a name (log 16). -/
def Obligations.EncryptAndDecryptOutcomes : Prop :=
  (∀ (w : Nat) (pub : PublicKey) (m : Int), m < 0 → hostEncrypt w pub m = .error .range) ∧
  (∀ (w : Nat) (pub : PublicKey) (m : Nat), pub.n < 2 ^ w → pub.e < 2 ^ w →
    (m < pub.n → hostEncrypt w pub m = .ok (m ^ pub.e % pub.n)) ∧
    (pub.n ≤ m → m < 2 ^ w → hostEncrypt w pub m = .error .range) ∧
    (2 ^ w ≤ m → hostEncrypt w pub m = .error .outsideDomain)) ∧
  (∀ (w : Nat) (priv : PrivateKey) (c : Nat), priv.n < 2 ^ w → priv.d < 2 ^ w → c < 2 ^ w →
    (1 ≤ priv.n → hostDecrypt w priv c = .ok (c ^ priv.d % priv.n)) ∧
    (priv.n = 0 → hostDecrypt w priv c = .error (.command .modulus)))

/-- R232 with 90_conflicts.md C5: a text that is not empty and does not begin with U+0000 is what `int_to_text` makes of
its integer. UTF-8 itself is presumed (log 17). -/
def Obligations.TextRoundTrip : Prop :=
  ∀ (c : Char) (rest : List Char), c.toNat ≠ 0 → intToText (textToInt (c :: rest)) = .ok (c :: rest)
end

