-- ==== Sys2Proof/Laws/State.lean ====
section
/-! SUPPORT. Laws/State.lean: what each named update of State leaves and sets, field by field. -/

namespace Sys2Proof.Machine

variable (s : State)

/-! Acceptance (20_memory.md R70). -/

@[simp] theorem accept_width (v : Word) : (s.accept v).width = s.width := rfl
@[simp] theorem accept_a (v : Word) : (s.accept v).a = s.a := rfl
@[simp] theorem accept_b (v : Word) : (s.accept v).b = s.b := rfl
@[simp] theorem accept_n (v : Word) : (s.accept v).n = s.n := rfl
@[simp] theorem accept_r (v : Word) : (s.accept v).r = s.r := rfl
@[simp] theorem accept_cmd (v : Word) : (s.accept v).cmd = v := rfl
@[simp] theorem accept_status (v : Word) : (s.accept v).status = s.status.accepted := rfl
@[simp] theorem accept_ctrl (v : Word) : (s.accept v).ctrl = s.ctrl := rfl
@[simp] theorem accept_rounds (v : Word) : (s.accept v).rounds = s.rounds := rfl
@[simp] theorem accept_scratch (v : Word) : (s.accept v).scratch = { s.scratch with phase := .pre } := rfl
@[simp] theorem accept_env (v : Word) : (s.accept v).env = s.env := rfl

/-! The engine going idle (10_state.md R38). -/

@[simp] theorem idled_width : (s.idled).width = s.width := rfl
@[simp] theorem idled_a : (s.idled).a = s.a := rfl
@[simp] theorem idled_b : (s.idled).b = s.b := rfl
@[simp] theorem idled_n : (s.idled).n = s.n := rfl
@[simp] theorem idled_r : (s.idled).r = s.r := rfl
@[simp] theorem idled_cmd : (s.idled).cmd = s.cmd := rfl
@[simp] theorem idled_status : (s.idled).status = s.status := rfl
@[simp] theorem idled_ctrl : (s.idled).ctrl = s.ctrl := rfl
@[simp] theorem idled_rounds : (s.idled).rounds = s.rounds := rfl
@[simp] theorem idled_scratch : (s.idled).scratch = s.freeScratch := rfl
@[simp] theorem idled_env : (s.idled).env = { s.env with fills := s.env.fills + 1 } := rfl

/-! Completion with a value for R (10_state.md R40). -/

@[simp] theorem completeResult_width (v : Nat) : (s.completeResult v).width = s.width := rfl
@[simp] theorem completeResult_a (v : Nat) : (s.completeResult v).a = s.a := rfl
@[simp] theorem completeResult_b (v : Nat) : (s.completeResult v).b = s.b := rfl
@[simp] theorem completeResult_n (v : Nat) : (s.completeResult v).n = s.n := rfl
@[simp] theorem completeResult_r (v : Nat) : (s.completeResult v).r = v := rfl
@[simp] theorem completeResult_cmd (v : Nat) : (s.completeResult v).cmd = s.cmd := rfl
@[simp] theorem completeResult_status (v : Nat) : (s.completeResult v).status = s.status.completed := rfl
@[simp] theorem completeResult_ctrl (v : Nat) : (s.completeResult v).ctrl = s.ctrl := rfl
@[simp] theorem completeResult_rounds (v : Nat) : (s.completeResult v).rounds = s.rounds := rfl
@[simp] theorem completeResult_scratch (v : Nat) : (s.completeResult v).scratch = s.freeScratch := rfl
@[simp] theorem completeResult_env (v : Nat) :
    (s.completeResult v).env = { s.env with fills := s.env.fills + 1 } := rfl

/-! Completion with a verdict (10_state.md R40). -/

@[simp] theorem completeVerdict_width (p : Bool) : (s.completeVerdict p).width = s.width := rfl
@[simp] theorem completeVerdict_a (p : Bool) : (s.completeVerdict p).a = s.a := rfl
@[simp] theorem completeVerdict_b (p : Bool) : (s.completeVerdict p).b = s.b := rfl
@[simp] theorem completeVerdict_n (p : Bool) : (s.completeVerdict p).n = s.n := rfl
@[simp] theorem completeVerdict_r (p : Bool) : (s.completeVerdict p).r = s.r := rfl
@[simp] theorem completeVerdict_cmd (p : Bool) : (s.completeVerdict p).cmd = s.cmd := rfl
@[simp] theorem completeVerdict_status (p : Bool) : (s.completeVerdict p).status = s.status.judged p := rfl
@[simp] theorem completeVerdict_ctrl (p : Bool) : (s.completeVerdict p).ctrl = s.ctrl := rfl
@[simp] theorem completeVerdict_rounds (p : Bool) : (s.completeVerdict p).rounds = s.rounds := rfl
@[simp] theorem completeVerdict_scratch (p : Bool) : (s.completeVerdict p).scratch = s.freeScratch := rfl
@[simp] theorem completeVerdict_env (p : Bool) :
    (s.completeVerdict p).env = { s.env with fills := s.env.fills + 1 } := rfl

/-! Completion with an error (60_exceptions.md R244). -/

@[simp] theorem completeError_width (c : ErrCode) : (s.completeError c).width = s.width := rfl
@[simp] theorem completeError_a (c : ErrCode) : (s.completeError c).a = s.a := rfl
@[simp] theorem completeError_b (c : ErrCode) : (s.completeError c).b = s.b := rfl
@[simp] theorem completeError_n (c : ErrCode) : (s.completeError c).n = s.n := rfl
@[simp] theorem completeError_r (c : ErrCode) : (s.completeError c).r = s.r := rfl
@[simp] theorem completeError_cmd (c : ErrCode) : (s.completeError c).cmd = s.cmd := rfl
@[simp] theorem completeError_status (c : ErrCode) : (s.completeError c).status = s.status.failed c := rfl
@[simp] theorem completeError_ctrl (c : ErrCode) : (s.completeError c).ctrl = s.ctrl := rfl
@[simp] theorem completeError_rounds (c : ErrCode) : (s.completeError c).rounds = s.rounds := rfl
@[simp] theorem completeError_scratch (c : ErrCode) : (s.completeError c).scratch = s.freeScratch := rfl
@[simp] theorem completeError_env (c : ErrCode) :
    (s.completeError c).env = { s.env with fills := s.env.fills + 1 } := rfl

/-! Acknowledgement (20_memory.md R71). -/

@[simp] theorem acknowledge_width (v : Word) : (s.acknowledge v).width = s.width := rfl
@[simp] theorem acknowledge_a (v : Word) : (s.acknowledge v).a = s.a := rfl
@[simp] theorem acknowledge_b (v : Word) : (s.acknowledge v).b = s.b := rfl
@[simp] theorem acknowledge_n (v : Word) : (s.acknowledge v).n = s.n := rfl
@[simp] theorem acknowledge_r (v : Word) : (s.acknowledge v).r = s.r := rfl
@[simp] theorem acknowledge_cmd (v : Word) : (s.acknowledge v).cmd = s.cmd := rfl
@[simp] theorem acknowledge_status (v : Word) : (s.acknowledge v).status = s.status.cleared v := rfl
@[simp] theorem acknowledge_ctrl (v : Word) : (s.acknowledge v).ctrl = s.ctrl := rfl
@[simp] theorem acknowledge_rounds (v : Word) : (s.acknowledge v).rounds = s.rounds := rfl
@[simp] theorem acknowledge_scratch (v : Word) : (s.acknowledge v).scratch = s.scratch := rfl
@[simp] theorem acknowledge_env (v : Word) : (s.acknowledge v).env = s.env := rfl

/-! Reset (70_reset_and_hazards.md R270, R271). -/

@[simp] theorem resetBlock_width : (s.resetBlock).width = s.width := rfl
@[simp] theorem resetBlock_a : (s.resetBlock).a = 0 := rfl
@[simp] theorem resetBlock_b : (s.resetBlock).b = 0 := rfl
@[simp] theorem resetBlock_n : (s.resetBlock).n = 0 := rfl
@[simp] theorem resetBlock_r : (s.resetBlock).r = 0 := rfl
@[simp] theorem resetBlock_cmd : (s.resetBlock).cmd = 0 := rfl
@[simp] theorem resetBlock_status : (s.resetBlock).status = Status.reset := rfl
@[simp] theorem resetBlock_ctrl : (s.resetBlock).ctrl = { ie := false } := rfl
@[simp] theorem resetBlock_rounds : (s.resetBlock).rounds = Config.roundsReset := rfl
@[simp] theorem resetBlock_scratch : (s.resetBlock).scratch = s.freeScratch := rfl
@[simp] theorem resetBlock_env : (s.resetBlock).env = { s.env with fills := s.env.fills + 1 } := rfl

/-! The schedule. -/

@[simp] theorem popEvent_width : (s.popEvent).width = s.width := rfl
@[simp] theorem popEvent_a : (s.popEvent).a = s.a := rfl
@[simp] theorem popEvent_b : (s.popEvent).b = s.b := rfl
@[simp] theorem popEvent_n : (s.popEvent).n = s.n := rfl
@[simp] theorem popEvent_r : (s.popEvent).r = s.r := rfl
@[simp] theorem popEvent_cmd : (s.popEvent).cmd = s.cmd := rfl
@[simp] theorem popEvent_status : (s.popEvent).status = s.status := rfl
@[simp] theorem popEvent_ctrl : (s.popEvent).ctrl = s.ctrl := rfl
@[simp] theorem popEvent_rounds : (s.popEvent).rounds = s.rounds := rfl
@[simp] theorem popEvent_scratch : (s.popEvent).scratch = s.scratch := rfl
@[simp] theorem popEvent_env : (s.popEvent).env = { s.env with schedule := s.env.schedule.tail } := rfl

/-! The draws (42_millerrabin.md R176). -/

@[simp] theorem takeDraws_width (k : Nat) : (s.takeDraws k).width = s.width := rfl
@[simp] theorem takeDraws_a (k : Nat) : (s.takeDraws k).a = s.a := rfl
@[simp] theorem takeDraws_b (k : Nat) : (s.takeDraws k).b = s.b := rfl
@[simp] theorem takeDraws_n (k : Nat) : (s.takeDraws k).n = s.n := rfl
@[simp] theorem takeDraws_r (k : Nat) : (s.takeDraws k).r = s.r := rfl
@[simp] theorem takeDraws_cmd (k : Nat) : (s.takeDraws k).cmd = s.cmd := rfl
@[simp] theorem takeDraws_status (k : Nat) : (s.takeDraws k).status = s.status := rfl
@[simp] theorem takeDraws_ctrl (k : Nat) : (s.takeDraws k).ctrl = s.ctrl := rfl
@[simp] theorem takeDraws_rounds (k : Nat) : (s.takeDraws k).rounds = s.rounds := rfl
@[simp] theorem takeDraws_scratch (k : Nat) : (s.takeDraws k).scratch = s.scratch := rfl
@[simp] theorem takeDraws_env (k : Nat) :
    (s.takeDraws k).env = { s.env with answers := s.env.answers.drop k, drawn := s.env.drawn + k } := rfl
@[simp] theorem takeDraws_zero : s.takeDraws 0 = s := rfl

/-! The kinds of completion, and the sequencer's move. -/

@[simp] theorem completion_result (v : Nat) : s.completion (.result v) = s.completeResult v := rfl
@[simp] theorem completion_verdict (p : Bool) : s.completion (.verdict p) = s.completeVerdict p := rfl
@[simp] theorem completion_err (c : ErrCode) : s.completion (.err c) = s.completeError c := rfl
@[simp] theorem completeIllegal_eq : s.completeIllegal = s.completeError .opcode := rfl
@[simp] theorem freeScratch_phase : s.freeScratch.phase = .idle := rfl
theorem goto_eq (p : Phase) : s.goto p = { s with scratch := { s.scratch with phase := p } } := rfl

/-! The flags (10_state.md R26). -/

variable (st : Status)

theorem completed_eq : st.completed = { st with busy := false, done := true } := rfl
theorem judged_eq (p : Bool) : st.judged p = { st with busy := false, done := true, prime := p } := rfl
theorem failed_eq (c : ErrCode) :
    st.failed c = { st with busy := false, done := true, err := true, errCode := c.code } := rfl
theorem accepted_eq :
    st.accepted = { st with busy := true, done := false, err := false, errCode := 0 } := rfl
theorem discarded_eq : st.discarded = { st with busyErr := true } := rfl

/-! The wide registers (10_state.md R20). -/

@[simp] theorem setWide_width (q : Wide) (v : Nat) : (s.setWide q v).width = s.width := by cases q <;> rfl
@[simp] theorem setWide_cmd (q : Wide) (v : Nat) : (s.setWide q v).cmd = s.cmd := by cases q <;> rfl
@[simp] theorem setWide_status (q : Wide) (v : Nat) : (s.setWide q v).status = s.status := by cases q <;> rfl
@[simp] theorem setWide_ctrl (q : Wide) (v : Nat) : (s.setWide q v).ctrl = s.ctrl := by cases q <;> rfl
@[simp] theorem setWide_rounds (q : Wide) (v : Nat) : (s.setWide q v).rounds = s.rounds := by cases q <;> rfl
@[simp] theorem setWide_scratch (q : Wide) (v : Nat) : (s.setWide q v).scratch = s.scratch := by cases q <;> rfl
@[simp] theorem setWide_env (q : Wide) (v : Nat) : (s.setWide q v).env = s.env := by cases q <;> rfl
@[simp] theorem setWide_same (q : Wide) (v : Nat) : (s.setWide q v).wide q = v := by cases q <;> rfl
theorem setWide_other (q p : Wide) (v : Nat) (h : p ≠ q) : (s.setWide q v).wide p = s.wide p := by
  cases q <;> cases p <;> first | rfl | exact absurd rfl h

end Sys2Proof.Machine
end

