-- ==== Sys2Proof/Laws/Ops.lean ====
section
/-! SUPPORT. Laws/Ops.lean: for each shared operation, once, everything it can do; and the bounds the operations
keep. -/

namespace Sys2Proof.Machine

/-- A witness answer is in range for every candidate a trial is run on (42_millerrabin.md R176). -/
theorem toWitness_range {n : Nat} (h : 5 ≤ n) (x : Nat) : 2 ≤ toWitness n x ∧ toWitness n x ≤ n - 2 := by
  unfold toWitness
  split
  · omega
  · have := Nat.mod_lt x (by omega : 0 < n - 3)
    omega

/-- A witness in range is answered as it is. -/
theorem toWitness_of_range {n x : Nat} (h : 2 ≤ x ∧ x + 2 ≤ n) : toWitness n x = x := by simp [toWitness, h]

/-- Every draw for a candidate that a trial is run on is in range (42_millerrabin.md R176). -/
theorem draw_range (s : State) (h : 5 ≤ s.n) (k : Nat) : 2 ≤ s.draw k ∧ s.draw k ≤ s.n - 2 :=
  toWitness_range h _

/-- After `j` draws, draw `k` is what draw `j + k` was before. -/
theorem draw_takeDraws (s : State) (j k : Nat) : (s.takeDraws j).draw k = s.draw (j + k) := by
  simp [State.draw, List.getD, List.getElem?_drop, Nat.add_assoc]

/-- The free content of the scratch registers has their widths (10_state.md R38). -/
theorem freeScratch_fits (s : State) : s.freeScratch.Fits s.width := by
  have h := fun k => Nat.mod_lt k (Nat.two_pow_pos s.width)
  refine ⟨h _, h _, h _, h _, h _, ?_, ?_, ?_, ?_⟩ <;> exact Nat.mod_lt _ (by decide)

/-- A completion is one of the three of 10_state.md R40. -/
theorem completion_cases (s : State) (out : ExecOut) :
    (∃ v, out = .result v ∧ s.completion out = { s with r := v, status := s.status.completed }.idled) ∨
    (∃ p, out = .verdict p ∧ s.completion out = { s with status := s.status.judged p }.idled) ∨
    (∃ c, out = .err c ∧ s.completion out = { s with status := s.status.failed c }.idled) := by
  cases out with
  | result v => exact .inl ⟨v, rfl, rfl⟩
  | verdict p => exact .inr (.inl ⟨p, rfl, rfl⟩)
  | err c => exact .inr (.inr ⟨c, rfl, rfl⟩)

/-- What a command's evaluation gives (10_state.md R41) and how many draws it uses (42_millerrabin.md R176). -/
def outcomeOf (i : Instr) (s : State) : ExecOut × Nat :=
  match i with
  | .modmul => (modmulOut s.a s.b s.n, 0)
  | .modexp => (modexpOut s.a s.b s.n, 0)
  | .modexpC => (modexpCOut s.a s.b s.n, 0)
  | .mrtest => (.verdict (isPrime s.n s.rounds.toNat s.draw).1, (isPrime s.n s.rounds.toNat s.draw).2)
  | .mrwit => (mrwitOut s.n s.a, 0)

/-- `exec` says once what every command does: it uses its draws and completes with its outcome. -/
theorem exec_eq (i : Instr) (s : State) :
    exec i s = .next ((s.takeDraws (outcomeOf i s).2).completion (outcomeOf i s).1) := by
  cases i <;> simp [exec, outcomeOf, execModmul, execModexp, execModexpC, execMrtest, execMrwit]

/-- The engine's step: a command's completion, or `ERR_OPCODE` for a word that is none. -/
theorem engineStep_eq (s : State) :
    engineStep s = match decode s.cmd with
      | .ok i => .next ((s.takeDraws (outcomeOf i s).2).completion (outcomeOf i s).1)
      | .error _ => .next (s.completeError .opcode) := by
  unfold engineStep
  cases decode s.cmd with
  | ok i => exact exec_eq i s
  | error e => rfl

/-- A mapped offset names a word below `NW` of a wide register (20_memory.md R64). -/
theorem regAt_word {w : Nat} {off : Offset} {q : Wide} {i : Nat} (h : regAt w off = some (.word q i)) :
    i < wordCount w := by
  simp only [regAt] at h
  repeat' split at h
  all_goals cases h
  all_goals assumption

/-- What a write can do (20_memory.md R62, R70 to R76). -/
theorem busWrite_cases (s : State) (off : Offset) (v : Word) :
    (regAt s.width off = none ∧ s.busWrite off v = (.error, s)) ∨
    ∃ g, regAt s.width off = some g ∧
      ((s.status.busy = true ∧ g.locked = true ∧
          s.busWrite off v = (.ok, { s with status := s.status.discarded })) ∨
       ((s.status.busy = false ∨ g.locked = false) ∧ s.busWrite off v = (.ok, s.writeUnlocked v g))) := by
  cases h : regAt s.width off with
  | none => exact .inl ⟨rfl, by simp [State.busWrite, h]⟩
  | some g =>
    refine .inr ⟨g, rfl, ?_⟩
    by_cases hb : s.status.busy = true <;> by_cases hl : g.locked = true <;>
      simp_all [State.busWrite, State.writeReg]

/-- What a step can do: the engine completes, or the host's next event happens. -/
theorem step_cases (s : State) :
    (s.engineTurn = true ∧ step s = engineStep s.turnTaken) ∨
    (s.engineTurn = false ∧ step s = .next s.hostTurn) := by
  cases h : s.engineTurn <;> simp [step, h]

/-- A write of a word keeps a wide value below `2 ^ w` when the word is one of its own (20_memory.md R74). -/
theorem wordSet_lt {w q i : Nat} {v : Word} (hq : q < 2 ^ w) (hw : w % 32 = 0) (hi : i < wordCount w) :
    wordSet q i v < 2 ^ w := by
  have hle : 32 * (i + 1) ≤ w := by unfold wordCount at hi; omega
  obtain ⟨m, rfl⟩ := Nat.exists_eq_add_of_le hle
  have hp := Nat.two_pow_pos (32 * (i + 1))
  have hhi : q / 2 ^ (32 * (i + 1)) < 2 ^ m := by
    rw [Nat.div_lt_iff_lt_mul hp, ← Nat.pow_add, Nat.add_comm m]; exact hq
  have hlo := Nat.mod_lt q (Nat.two_pow_pos (32 * i))
  have hv := v.isLt
  have hsplit : 2 ^ (32 * (i + 1)) = 2 ^ 32 * 2 ^ (32 * i) := by rw [← Nat.pow_add]; congr 1; omega
  have hlow : v.toNat * 2 ^ (32 * i) + q % 2 ^ (32 * i) < 2 ^ (32 * (i + 1)) := by
    rw [hsplit]; nlinarith
  have hcap : (q / 2 ^ (32 * (i + 1)) + 1) * 2 ^ (32 * (i + 1)) ≤ 2 ^ m * 2 ^ (32 * (i + 1)) :=
    Nat.mul_le_mul_right _ hhi
  unfold wordSet
  rw [Nat.pow_add, Nat.mul_comm (2 ^ (32 * (i + 1))) (2 ^ m)]
  nlinarith

/-- EXPECTW's expectations are met by every word of a value that fits exactly when it is the value expected, of whatever
size that is (30_encoding.md R108). -/
theorem expectedWord_iff {w q v : Nat} (hw : Config.LegalWidth w) (hq : q < 2 ^ w) :
    (∀ i < wordCount w, (wordGet q i).toNat = expectedWord w v i) ↔ q = v := by
  have hn : w = 32 * (wordCount w - 1) + 32 := by unfold wordCount; omega
  have hpos : wordCount w - 1 + 1 = wordCount w := by unfold wordCount; omega
  have htop : q / 2 ^ (32 * (wordCount w - 1)) < 2 ^ 32 := by
    rw [Nat.div_lt_iff_lt_mul (Nat.two_pow_pos _), ← Nat.pow_add, Nat.add_comm, ← hn]; exact hq
  constructor
  · intro h
    have top : q / 2 ^ (32 * (wordCount w - 1)) = v / 2 ^ (32 * (wordCount w - 1)) := by
      have := h (wordCount w - 1) (by rw [← hpos]; exact Nat.lt_succ_self _)
      rwa [expectedWord, if_pos hpos, wordGet, BitVec.toNat_ofNat, Nat.mod_eq_of_lt htop] at this
    refine Nat.eq_of_testBit_eq fun j => ?_
    by_cases hj : j < 32 * (wordCount w - 1)
    · have := h (j / 32) (by omega)
      rw [expectedWord, if_neg (by omega)] at this
      have bit := congrArg (fun x : Word => x.getLsbD (j % 32)) (BitVec.eq_of_toNat_eq this)
      simpa [wordGet, BitVec.getLsbD_ofNat, -BitVec.getLsbD_eq_getElem, Nat.mod_lt, Nat.testBit_div_two_pow,
        Nat.mod_add_div] using bit
    · have := congrArg (fun x => Nat.testBit x (j - 32 * (wordCount w - 1))) top
      simpa [Nat.testBit_div_two_pow, Nat.sub_add_cancel (Nat.le_of_not_lt hj)] using this
  · rintro rfl i hi
    unfold expectedWord
    split
    · rename_i h
      obtain rfl : i = wordCount w - 1 := by omega
      rw [wordGet, BitVec.toNat_ofNat, Nat.mod_eq_of_lt htop]
    · rfl

end Sys2Proof.Machine
end

