-- ==== Sys2Proof/Laws/PerInstr.lean ====
section
/-! SUPPORT. Laws/PerInstr.lean: facts about every command as syntax, one lemma per constructor. -/

namespace Sys2Proof.Laws.FieldsWellFormed

/-- The fields of a command pass every check of a legal word (30_encoding.md R101, R105). -/
def Statement (i : Instr) : Prop := i.wellFormed = true ∧ fieldsOf (encode i) = i.fields

theorem modmul : Statement .modmul := by unfold Statement; decide
theorem modexp : Statement .modexp := by unfold Statement; decide
theorem modexpC : Statement .modexpC := by unfold Statement; decide
theorem mrtest : Statement .mrtest := by unfold Statement; decide
theorem mrwit : Statement .mrwit := by unfold Statement; decide

end Sys2Proof.Laws.FieldsWellFormed
end

