-- ==== Sys2Proof/Tests/Slice0.lean ====
section
/-! SUPPORT. Tests/Slice0.lean: small tests, their expected values from spec/95_test_vectors.md (the vector is named in
the comment) or from the rule's own example, and for each statement with hypotheses a state that meets them. -/

namespace Sys2Proof.Tests

open Sys2Proof Sys2Proof.Machine

/-! ## Helpers -/

/-- A block of 64 bits after reset, the start of most vectors. -/
def small : State := State.resetOf 64

/-- The same with operands. -/
def loaded (a b n : Nat) : State := { small with a := a, b := b, n := n }

/-- The same with a command word just accepted. -/
def pending (w : Word) (a b n : Nat) : State := (loaded a b n).accept w

/-- A schedule at the edge of a state. -/
def scheduled (s : State) (events : List Event) : State := { s with env := { s.env with schedule := events } }

/-- What a test reads of an outcome. -/
def seen {α : Type} (o : Host.Outcome State Fault Refusal) (read : State → α) : Option α :=
  match o with
  | .next t => some (read t)
  | _ => none

/-- R and STATUS. -/
def resultOf (s : State) : Nat × Word := (s.r, s.status.toWord)

/-! ## Decoding: words written out from 30_encoding.md R101, R102 as RSV, CHK, OP -/

theorem test_word_modmul : decode (0b000000000000000000000000000#27 ++ 0b0#1 ++ 0b0001#4) = .ok .modmul := by decide
theorem test_word_modexp : decode (0b000000000000000000000000000#27 ++ 0b0#1 ++ 0b0010#4) = .ok .modexp := by decide
theorem test_word_modexpC : decode (0b000000000000000000000000000#27 ++ 0b1#1 ++ 0b0010#4) = .ok .modexpC := by decide
theorem test_word_mrtest : decode (0b000000000000000000000000000#27 ++ 0b0#1 ++ 0b0011#4) = .ok .mrtest := by decide
theorem test_word_mrwit : decode (0b000000000000000000000000000#27 ++ 0b0#1 ++ 0b0100#4) = .ok .mrwit := by decide

/-- VX1 to VX8: the words that are no command, and why. -/
theorem test_illegal_words :
    [0x00000000#32, 0x00000005#32, 0x0000000F#32, 0x00000010#32].map decode = List.replicate 4 (.error .undefinedOp) ∧
    [0x00000011#32, 0x00000013#32, 0x00000014#32].map decode = List.replicate 3 (.error .checkNotAllowed) ∧
    [0x00000022#32, 0x80000001#32].map decode = List.replicate 2 (.error .reservedBits) := by decide

theorem test_table_words :
    decodeTableWord 32 18 = some .modexpC ∧ decodeTableWord 32 4 = some .mrwit ∧ decodeTableWord 32 19 = none ∧
    decodeTableWord 64 (2 ^ 32 + 1) = none := by decide

/-! ## WellFormed: an ill-formed term for each check -/

theorem smoke_rsv : (CmdFields.mk 1 0 1).rsvZero = false ∧ (CmdFields.mk 1 0 1).wellFormed = false := by decide
theorem smoke_op : (CmdFields.mk 0 0 5).opDefined = false ∧ (CmdFields.mk 0 0 0).wellFormed = false := by decide
theorem smoke_chk : (CmdFields.mk 0 1 3).chkAllowed = false ∧ (CmdFields.mk 0 1 3).wellFormed = false := by decide
theorem smoke_width : ¬ Config.LegalWidth 0 ∧ ¬ Config.LegalWidth 33 ∧ ¬ Config.LegalWidth 32800 := by decide
theorem smoke_stmt : (Stmt.lda (2 ^ 64)).wellFormed 64 = false ∧ (Stmt.lda (2 ^ 64 - 1)).wellFormed 64 = true := by
  decide

/-! ## Commands -/

/-- VM7, and VM14 (an even modulus). -/
theorem test_modmul :
    seen (exec .modmul (loaded 200 200 97)) resultOf = some (36, 0x00000002#32) ∧
    seen (exec .modmul (loaded (2 ^ 64 - 1) (2 ^ 64 - 1) (2 ^ 63))) resultOf = some (1, 0x00000002#32) := by decide

/-- VM17 with R kept, VM19. -/
theorem test_modmul_flags :
    seen (exec .modmul { loaded 5 5 0 with r := 77 }) resultOf = some (77, 0x00000206#32) ∧
    seen (exec .modmul { loaded 45 76 97 with status := { Status.reset with prime := true } }) resultOf
      = some (25, 0x0000000A#32) := by decide

/-- VE1, VE13. -/
theorem test_modexp :
    seen (exec .modexp (loaded 65 17 3233)) resultOf = some (2790, 0x00000002#32) ∧
    seen (exec .modexp (loaded 3300 3 3233)) resultOf = some (94, 0x00000002#32) := by decide

/-- VE6, VE20. -/
theorem test_modexp_corners :
    seen (exec .modexp (loaded 5 0 1)) resultOf = some (0, 0x00000002#32) ∧
    seen (exec .modexp (loaded 3 200 (2 ^ 63))) resultOf = some (6627890308811632801, 0x00000002#32) := by decide

/-- VE2, VE12, VE21. -/
theorem test_modexpC :
    seen (exec .modexpC (loaded 2790 2753 3233)) resultOf = some (65, 0x00000002#32) ∧
    seen (exec .modexpC { loaded 3233 17 3233 with r := 9 }) resultOf = some (9, 0x00000106#32) ∧
    seen (exec .modexpC (loaded 10 3 0)) resultOf = some (0, 0x00000106#32) := by decide

/-- VR63, VR64, VR65: two draws, one draw, and a false positive. -/
theorem test_mrtest :
    ([[174, 137], [137, 9], [174, 47]].map fun draws =>
      seen (exec .mrtest { loaded 0 0 221 with rounds := 2, env := { Env.reset with answers := draws } })
        fun t => (t.status.toWord, t.env.drawn))
      = [some (0x00000002#32, 2), some (0x00000002#32, 1), some (0x0000000A#32, 2)] := by decide

/-- VR60, VR61, VR62: no draw is made. -/
theorem test_mrtest_no_draw :
    ([(1, 3), (3, 0), (100, 3), (221, 0)].map fun (p : Nat × Word) =>
      seen (exec .mrtest { loaded 0 0 p.1 with rounds := p.2 }) fun t => (t.status.prime, t.env.drawn))
      = [some (false, 0), some (true, 0), some (false, 0), some (true, 0)] := by decide

/-- VR33, VR44 (a trial that passes at its last squaring), VR36, VR57. -/
theorem test_mrwit :
    ([(97, 2), (65537, 3), (341, 2), (25, 23)].map fun (p : Nat × Nat) =>
      seen (exec .mrwit (loaded p.2 0 p.1)) fun t => t.status.toWord)
      = [some 0x0000000A#32, some 0x0000000A#32, some 0x00000002#32, some 0x00000002#32] := by decide

/-- VR54, VR55, VR59. -/
theorem test_mrwit_error :
    seen (exec .mrwit (loaded 1 0 25)) (fun t => t.status.toWord) = some 0x00000406#32 ∧
    seen (exec .mrwit { loaded 24 0 25 with status := { Status.reset with prime := true } }) (fun t => t.status.toWord)
      = some 0x0000040E#32 := by decide

/-- VB20: an all-zero word is accepted and ends with `ERR_OPCODE`. -/
theorem test_illegal_word : seen (step (pending 0 1 1 1)) (fun t => t.status.toWord) = some 0x00000306#32 := by decide

/-! ## The units: the examples of 40_modmul.md R135 to R137 and VU4, VU8, VU9 -/

theorem test_montgomery : montPrime 8 97 = 95 ∧ montRR 8 97 = 61 ∧ redc 8 95 97 2745 = 74 ∧ redc 8 95 97 5624 = 25 := by
  decide
theorem test_montgomery_power : sqMulMont 8 7 13 97 = 38 := by decide
theorem test_barrett : barrettRed 3420 100 = 20 ∧ barrettRed 81 10 = 1 ∧ barrettRed 1 2 = 1 := by decide

/-- VR15, and the trace of VE1 after the bit of index 2. -/
theorem test_engine_parts :
    decompose (2 ^ 64 - 59) = (2, 4611686018427387889) ∧
    sqMulBit 65 3233 false (sqMulBit 65 3233 false (sqMulBit 65 3233 true 1)) = 1232 := by decide

/-! ## The bus -/

/-- VB1, VB2, VB4, VB5, VB6. -/
theorem test_bus_read :
    [0x0010, 0x000C, 0x0002, 0x0014, 0x0FFC, 0x5000, 0x1004, 0x1008].map small.busRead
      = [(.ok, 0x40), (.ok, 10), (.error, 0), (.error, 0), (.error, 0), (.error, 0), (.ok, 0), (.error, 0)] := by decide

/-- VB8, VB9. -/
theorem test_bus_words :
    ((small.busWrite 0x1000 2).2.busWrite 0x1004 1).2.a = 4294967298 ∧
    ({ small with a := 4294967298 }.busWrite 0x1000 0xFFFFFFFF).2.a = 0x00000001FFFFFFFF := by decide

/-- VB14, VB15, VB16. -/
theorem test_bus_w1c :
    (Status.mk false true false true true 0).toWord = 0x0000001A ∧
    ((Status.mk false true false true true 0).cleared 2).toWord = 0x00000018 ∧
    ((Status.mk false true true false false 4).cleared 4).toWord = 0x00000002 ∧
    ((Status.mk false true true false false 4).cleared 2).toWord = 0x00000404 := by decide

/-- VB22, VB28, VB29: a locked register, a read-only one and an unmapped offset, while busy. -/
theorem test_bus_busy :
    ((pending 2 65 0 0).busWrite 0x0000 1).2.cmd = 2 ∧
    ((pending 2 65 0 0).busWrite 0x0000 1).2.status.toWord = 0x00000011 ∧
    ((pending 2 65 0 0).busWrite 0x4000 1).2.status.toWord = 0x00000001 ∧
    (pending 2 65 0 0).busWrite 0x1008 1 = (.error, pending 2 65 0 0) := by decide

/-- VT2, VT3: a soft reset from a state with everything set. -/
theorem test_soft_reset :
    ([2, 3].map fun (v : Word) => resultOf (({ loaded 65 17 3233 with
      r := 2790, cmd := 0x12, status := Status.mk false true false true true 0, ctrl := ⟨true⟩, rounds := 3 }).busWrite
        0x0008 v).2) = [(0, 0), (0, 0)] := by decide

/-- P3: the write that races the engine, discarded because the completion falls after it; and the step that waits. -/
theorem test_wait :
    seen (step (scheduled (pending 1 45 76 97) [.write 0x1000 99])) (fun t => (t.a, t.status.toWord))
      = some (45, 0x00000011#32) ∧
    seen (step (scheduled (pending 1 45 76 97) [.wait])) (fun t => (t.r, t.env.schedule)) = some (25, [.wait]) := by
  decide

/-- R110: `LDN 3233` on 64 bits. -/
theorem test_script_load :
    (Stmt.ldn 3233).expand 64 = [.write 0x3000 0x00000CA1, .write 0x3004 0x00000000] := by decide

/-- R108: EXPECTW of a value that is there, of another, and of one above `2^W` with the same low bits; R109: a script with
a value that does not fit is none. -/
theorem test_expect_wide :
    ([5, 6, 2 ^ 64 + 5].map fun v =>
      seen (Host.Core.run Sys2Proof.core 4 (scheduled (loaded 5 0 0) ((Stmt.expectW .A v).expand 64))) (·.env.failed))
      = [some false, some true, some true] ∧
    small.withScript [.lda (2 ^ 64), .wait] = none := by decide

theorem test_command_runs_first_after_reset :
    seen (step (State.reset.withFetchWord 32 3)) (fun t => t.status.toWord) = some 0x00000002#32 ∧
    seen (step (State.reset.withFetchWord 32 18)) (fun t => t.status.toWord) = some 0x00000106#32 := by decide

/-! ## The software: VH1 to VH6, VH7 to VH12 -/

theorem test_host_arithmetic :
    hostGcd 48 18 = 6 ∧ modularInverse 17 3120 = .ok 2753 ∧ modularInverse 65537 24 = .ok 17 ∧
    modularInverse 5 1 = .ok 0 ∧ modularInverse 2 4 = .error .arithmeticPrecondition := by decide
theorem test_host_keypair :
    generateKeypair 64 6 [⟨5, fun _ => 2⟩, ⟨7, fun _ => 2⟩] = .ok (⟨35, 65537⟩, ⟨35, 17⟩) := by decide +kernel
theorem test_host_text :
    textToInt ['H', 'i'] = 18537 ∧ textToInt ['é'] = 50089 ∧ intToText 65 = .ok ['A'] ∧
    intToText 255 = .error .encoding ∧ encryptText 64 ⟨3233, 17⟩ ['A'] = .ok 2790 ∧
    encryptText 64 ⟨3233, 17⟩ ['H', 'i'] = .error .range := by decide +kernel

/-- R225, R212, R210: a negative message, bit count and number of rounds. -/
theorem test_host_negative :
    hostEncrypt 64 ⟨3233, 17⟩ (-1) = .error .range ∧ hostEncrypt 64 ⟨3233, 17⟩ 65 = .ok 2790 ∧
    generateKeypair 64 (-6) [⟨5, fun _ => 2⟩] = .error .outsideDomain ∧
    hostIsPrime 64 7 (-1) (fun _ => 2) = .error .outsideDomain := by decide +kernel

/-! ## For each statement with hypotheses, states and operands that meet them -/

theorem witness_ResetFromEveryState :
    (0x00000002#32)[1] = true ∧ (0xFFFFFFFF#32)[1] = true ∧ (scheduled small [.reset]).env.schedule = .reset :: [] := by
  decide
theorem witness_InvariantAtReset : Config.LegalWidth 32 ∧ Config.LegalWidth 1024 ∧ Config.LegalWidth 32768 := by decide
theorem witness_StepKeepsInvariant :
    (pending 1 45 76 97).Inv ∧ ∃ t, step (pending 1 45 76 97) = .next t := ⟨by decide, _, rfl⟩
theorem witness_ReachableStatesKeepInvariant : Reachable { State.resetOf 64 with env := Env.reset } :=
  .start 64 Env.reset (by decide)
theorem witness_StepAlwaysGoesOn : (pending 1 45 76 97).engineTurn = true := by decide
theorem witness_StepRunsDecodedCommand :
    (pending 1 45 76 97).engineTurn = true ∧ decode (pending 1 45 76 97).cmd = .ok .modmul ∧
    (scheduled small [.complete]).env.schedule = .complete :: [] ∧ small.env.schedule.head? ≠ some .complete ∧
    (scheduled (pending 1 45 76 97) [.wait]).engineTurn = true := by decide
theorem witness_IllegalWordEndsWithOpcodeError :
    legal (pending 0x13 0 0 0).cmd = false ∧ (pending 0x13 0 0 0).engineTurn = true ∧
    (scheduled (pending 0x13 0 0 0) [.complete, .read 4]).engineTurn = true ∧
    (scheduled (pending 0x13 0 0 0) [.wait]).engineTurn = true := by decide
theorem witness_ResetValues : Config.LegalWidth 32 ∧ Config.LegalWidth 1024 ∧ Config.LegalWidth 32768 := by decide
theorem witness_StatusAndControlWords : Config.LegalWidth small.width ∧ Config.LegalWidth State.reset.width := by decide
theorem witness_StepPerformsTransactions :
    (scheduled small [.read 4]).env.schedule = .read 4 :: [] ∧
    (scheduled small [.write 0 1]).env.schedule = .write 0 1 :: [] ∧
    (scheduled small [.writeLast 0x1000]).env.schedule = .writeLast 0x1000 :: [] := by decide
theorem witness_ModmulCommand :
    (loaded 45 76 97).n ≠ 0 ∧ (loaded 6 6 1).n ≠ 0 ∧ (loaded 5 5 0).n = 0 ∧
    (loaded 45 76 (2 ^ 64 - 1)).n < 2 ^ (loaded 45 76 (2 ^ 64 - 1)).width ∧
    ∃ t, exec .modmul (loaded 45 76 (2 ^ 64 - 1)) = .next t := ⟨by decide, by decide, by decide, by decide, _, rfl⟩
theorem witness_MontgomeryConstants : 1 ≤ 8 ∧ 97 % 2 = 1 ∧ 97 < 2 ^ 8 ∧ 1 % 2 = 1 ∧ 1 < 2 ^ 1 := by decide
theorem witness_MontgomeryReduction :
    1 ≤ 8 ∧ 97 % 2 = 1 ∧ 97 < 2 ^ 8 ∧ 97 * 2 ^ 8 - 1 < 97 * 2 ^ 8 ∧ 96 < 97 ∧ 1 ≤ 1 ∧ 1 % 2 = 1 ∧ 1 < 2 ^ 1 := by decide
theorem witness_BarrettReducesExactly : 1 ≤ 1 ∧ 0 < 1 ^ 2 ∧ 1 ≤ 100 ∧ 9999 < 100 ^ 2 := by decide
theorem witness_UnitComputesMulMod : 1 ≤ 1 ∧ 1 < 2 ^ 1 ∧ 1 ≤ 255 ∧ 255 < 2 ^ 8 ∧ 1 ≤ 254 ∧ 254 < 2 ^ 8 := by decide
theorem witness_SquareAndMultiplyIsPower : 1 ≤ 1 ∧ sqMul 0 0 1 = 0 ∧ 1 ≤ 7 ∧ sqMul 0 0 7 = 1 := by decide
theorem witness_MontgomeryFormPowerIsModExp : 1 ≤ 8 ∧ 255 % 2 = 1 ∧ 255 < 2 ^ 8 := by decide
theorem witness_ModexpCommand : (loaded 65 17 3233).n ≠ 0 ∧ (loaded 0 0 1).n ≠ 0 ∧ (loaded 10 3 0).n = 0 := by decide
theorem witness_ModexpCheckedCommand :
    (loaded 65 17 3233).a < (loaded 65 17 3233).n ∧ (loaded 0 0 1).a < (loaded 0 0 1).n ∧
    (loaded 3233 17 3233).n ≤ (loaded 3233 17 3233).a ∧ (loaded 0 3 0).n ≤ (loaded 0 3 0).a := by decide
theorem witness_DecomposeIsUniqueSplit : 5 % 2 = 1 ∧ 5 ≤ 5 ∧ 5 - 1 = 2 ^ 2 * 1 ∧ (2, 1) = decompose 5 ∧ 5 < 2 ^ 3 := by decide
theorem witness_TrialPassesExactlyWhen :
    5 % 2 = 1 ∧ 5 ≤ 5 ∧ 5 - 1 = 2 ^ 2 * 1 ∧ 1 % 2 = 1 ∧ trial 5 2 = true ∧ trial 9 2 = false := by decide
theorem witness_PrimeAlwaysAccepted :
    (isPrime 9 1 fun _ => 2).1 = false ∧ (∀ k < 1, 2 ≤ (fun _ => 2 : Nat → Nat) k ∧ (fun _ => 2 : Nat → Nat) k ≤ 9 - 2) ∧
    Nat.Prime 7 ∧ ∀ k < 3, 2 ≤ (fun k => k + 2 : Nat → Nat) k ∧ (fun k => k + 2 : Nat → Nat) k ≤ 7 - 2 :=
  ⟨by decide, by decide, by norm_num, by decide⟩
theorem witness_MrtestNeverRejectsPrime :
    Nat.Prime (loaded 0 0 97).n ∧ ∃ t, exec .mrtest (loaded 0 0 9) = .next t ∧ ¬ Nat.Prime (loaded 0 0 9).n :=
  ⟨by norm_num [loaded, small, State.resetOf], _, rfl, by norm_num [loaded, small, State.resetOf]⟩
theorem witness_MrtestDecidedWithoutDraw :
    (loaded 0 0 1).n < 2 ∧ (loaded 0 0 2).n = 2 ∧ (loaded 0 0 3).n = 3 ∧
    (4 ≤ (loaded 0 0 4).n ∧ (loaded 0 0 4).n % 2 = 0) ∧
    (5 ≤ (loaded 0 0 5).n ∧ (loaded 0 0 5).n % 2 = 1 ∧ { loaded 0 0 5 with rounds := 0 }.rounds = 0) := by decide
theorem witness_MrtestRunsItsTrials :
    (∀ k < 2, trial 221 ({ loaded 0 0 221 with rounds := 2, env := { Env.reset with answers := [174, 47] } }.draw k)
      = true) ∧
    (1 < 2 ∧ (∀ j < 1, trial 221
      ({ loaded 0 0 221 with rounds := 2, env := { Env.reset with answers := [174, 137] } }.draw j) = true) ∧
      trial 221 ({ loaded 0 0 221 with rounds := 2, env := { Env.reset with answers := [174, 137] } }.draw 1) = false) := by
  decide
theorem witness_MrwitCommand :
    ((loaded 9 0 1).n < 2 ∧ (loaded 0 0 2).n = 2 ∧ (loaded 0 0 3).n = 3 ∧
      (4 ≤ (loaded 0 0 4).n ∧ (loaded 0 0 4).n % 2 = 0) ∧
      (2 ≤ (loaded 2 0 5).a ∧ (loaded 2 0 5).a ≤ (loaded 2 0 5).n - 2 ∧ true = trial 5 2) ∧
      (2 ≤ (loaded 23 0 25).a ∧ (loaded 23 0 25).a ≤ (loaded 23 0 25).n - 2 ∧ false = trial 25 23)) ∧
    (5 ≤ (loaded 1 0 25).n ∧ (loaded 1 0 25).n % 2 = 1 ∧ (loaded 1 0 25).a < 2 ∧
      (loaded 24 0 25).n - 2 < (loaded 24 0 25).a) ∧
    (mrwitOut 25 7 ≠ .err .witness ∧ mrwitOut 4 0 ≠ .err .witness) := by decide
theorem witness_OnlyTheirWritersChangeRegisters :
    (seen (step (pending 1 45 76 97)) (fun t => decide (t.r ≠ small.r)) = some true) ∧
    (seen (step (pending 4 2 0 7)) (fun t => decide (t.status.prime ≠ small.status.prime)) = some true) ∧
    (seen (step (scheduled small [.write 0x1000 1])) (fun t => decide (t.a ≠ small.a)) = some true) ∧
    (seen (step (scheduled small [.write 0x2000 1])) (fun t => decide (t.b ≠ small.b)) = some true) ∧
    (seen (step (scheduled small [.write 0x3000 1])) (fun t => decide (t.n ≠ small.n)) = some true) ∧
    (seen (step (scheduled small [.write 0x0000 1])) (fun t => decide (t.cmd ≠ small.cmd)) = some true) ∧
    (seen (step (scheduled small [.write 0x000C 1])) (fun t => decide (t.rounds ≠ small.rounds)) = some true) ∧
    (seen (step (scheduled small [.write 0x0008 1])) (fun t => decide (t.ctrl ≠ small.ctrl)) = some true) := by decide
theorem witness_OnlyCmdWriteStartsCommand :
    (small.status.busy = false ∧
      seen (step (scheduled small [.write 0 1])) (fun t => t.status.busy) = some true) ∧
    ((pending 1 1 1 1).status.busy = true ∧ seen (step (pending 1 1 1 1)) (fun t => t.status.busy) = some false) ∧
    ((pending 1 1 1 1).status.busyErr = false ∧
      seen (step (scheduled (pending 1 1 1 1) [.write 0 1])) (fun t => t.status.busyErr) = some true) ∧
    (seen (step (scheduled { small with status := Status.mk false false false false true 0 } [.write 4 16]))
      (fun t => t.status.busyErr) = some false) := by decide
theorem witness_ErrorsHaveNoPartialEffect :
    (pending 1 5 5 0).status.err = false ∧
    seen (engineStep (pending 1 5 5 0)) (fun t => t.status.err) = some true ∧
    seen (engineStep (pending 0 5 5 1)) (fun t => t.status.err) = some true ∧ ({ small with ctrl := ⟨true⟩ }).ctrl.ie = true := by
  decide
theorem witness_SequencerReachesCompletion :
    (pending 3 0 0 221).Inv ∧ (pending 3 0 0 221).status.busy = true ∧ (pending 3 0 0 221).scratch.phase = .pre := by
  decide
theorem witness_AddressMap :
    Config.LegalWidth 64 ∧ regAt 64 0x1004 = some (.word .A 1) ∧ regAt 64 0x1008 = none ∧
    regAt 32768 0x4FFC = some (.word .R 1023) ∧ regAt 32768 0x5000 = none := by decide
theorem witness_UnmappedAccessesDoNothing :
    Config.LegalWidth small.width ∧ (0x1001#16).toNat % 4 ≠ 0 ∧ 0x0014 ≤ (0x0014#16).toNat ∧
    (0x0FFC#16).toNat < 0x1000 ∧ 0x5000 ≤ (0x5000#16).toNat ∧ 4 * (small.width / 32) ≤ (0x1008#16).toNat % 0x1000 := by
  decide
theorem witness_CmdWriteIsAccepted : small.status.busy = false ∧ (pending 1 0 0 0).status.busy = true := by decide
theorem witness_StatusWriteClears : (0x00000006#32)[1] = true := by decide
theorem witness_CtrlWrite : (0x00000003#32)[1] = true ∧ (0xFFFFFFFD#32)[1] = false := by decide
theorem witness_RoundsWrite : small.status.busy = false ∧ (pending 1 0 0 0).status.busy = true := by decide
theorem witness_WordWriteSetsItsBits :
    small.status.busy = false ∧ Wide.A ≠ .R ∧ regAt small.width 0x1000 = some (.word .A 0) ∧
    regAt small.width 0x3004 = some (.word .N 1) ∧ (pending 1 0 0 0).status.busy = true ∧
    regAt (pending 1 0 0 0).width 0x2004 = some (.word .B 1) := by decide
theorem witness_WordWriteReadsBack :
    small.status.busy = false ∧ Wide.B ≠ .R ∧ regAt small.width 0x2004 = some (.word .B 1) ∧
    (0x2000#16) ≠ 0x2004#16 := by decide
theorem witness_WideValueIsSumOfWords :
    Config.LegalWidth small.width ∧ 1 < small.width / 32 ∧ Config.LegalWidth 64 ∧ 2 ^ 64 - 1 < 2 ^ 64 := by decide
theorem witness_ReadOnlyWritesIgnored :
    regAt small.width 0x4000 = some (.word .R 0) ∧ regAt small.width 0x4004 = some (.word .R 1) := by decide
theorem witness_LockedWritesDiscarded :
    (pending 1 0 0 0).status.busy = true ∧ regAt 64 0x0000 = some .cmd ∧ regAt 64 0x000C = some .rounds ∧
    regAt 64 0x1000 = some (.word .A 0) ∧ regAt 64 0x2000 = some (.word .B 0) ∧ regAt 64 0x3004 = some (.word .N 1) ∧
    regAt 64 0x4000 ≠ some .status := by decide
theorem witness_InterruptLevel : { small with ctrl := ⟨true⟩ }.ctrl.ie = true ∧ small.ctrl.ie = false := by decide
theorem witness_LoadStatementSetsRegister :
    Config.LegalWidth small.width ∧ small.wide .B < 2 ^ small.width ∧ small.status.busy = false ∧ Wide.B ≠ .R ∧
    2 ^ 64 - 1 < 2 ^ small.width ∧
    (scheduled small (loadWide 64 .B (2 ^ 64 - 1) ++ [.wait])).env.schedule
      = loadWide small.width .B (2 ^ 64 - 1) ++ [.wait] := by decide
theorem witness_ArithmeticCommandsFrame :
    regAt small.width 0x1000 ≠ some .status ∧ ∀ j < 2, regAt small.width 0x1000 ≠ some (.word .R j) := by decide
theorem witness_TesterCommandsFrame : regAt small.width 0x4000 ≠ some .status := by decide
theorem witness_ModularInverseContract :
    2 ≤ 3120 ∧ Nat.gcd 17 3120 = 1 ∧ (4 : Nat) ≠ 1 ∧ Nat.gcd 2 4 ≠ 1 ∧ 2 ≤ 2 ∧ Nat.gcd 1 2 = 1 ∧ modularInverse 1 2 = .ok 1 ∧
    modularInverse 7 1 = .ok 0 ∧ Nat.gcd 7 0 ≠ 1 ∧ modularInverse 7 0 = .error .arithmeticPrecondition ∧
    modularInverse 1 0 = .error .arithmeticPrecondition := by decide
theorem witness_CandidateHasItsBitLength : 1 ≤ 1 ∧ candidate 1 0 = 1 ∧ candidate 3 0 = 5 := by decide
theorem witness_KeyExponentsAreInverse : 2 ≤ (2 - 1) * (3 - 1) ∧ 2 ≤ (5 - 1) * (7 - 1) := by decide
theorem witness_RsaRoundTrip :
    Nat.Prime 5 ∧ Nat.Prime 7 ∧ (5 : Nat) ≠ 7 ∧ keypairOf 5 7 = .ok (⟨35, 65537⟩, ⟨35, 17⟩) ∧ 5 * 7 < 2 ^ 64 ∧
    65537 < 2 ^ 64 ∧ 34 < 5 * 7 ∧ (loaded 34 65537 35).n = 5 * 7 ∧ (loaded 34 65537 35).a = 34 ∧
    (loaded 34 65537 35).b = 65537 :=
  ⟨by norm_num, by norm_num, by decide, by decide +kernel, by decide, by decide, by decide, rfl, rfl, rfl⟩
theorem witness_EncryptAndDecryptOutcomes :
    (-1 : Int) < 0 ∧ 3233 < 2 ^ 64 ∧ 17 < 2 ^ 64 ∧ 2753 < 2 ^ 64 ∧ 3232 < 3233 ∧ 3233 ≤ 3233 ∧ 0 < 2 ^ 64 ∧
    2 ^ 64 ≤ 2 ^ 64 ∧ 1 ≤ 3233 ∧ (PrivateKey.mk 0 3).n = 0 := by decide
theorem witness_ExpectStatementChecksRegister :
    Config.LegalWidth small.width ∧ small.wide .A < 2 ^ small.width ∧
    (scheduled small (expectWide 64 .A (2 ^ 64) ++ [.wait])).env.schedule
      = expectWide small.width .A (2 ^ 64) ++ [.wait] := by decide
theorem witness_TextRoundTrip : 'A'.toNat ≠ 0 ∧ 'é'.toNat ≠ 0 := by decide

end Sys2Proof.Tests
end

section
/-! PROOFS. Every completion clears BUSY and sets DONE (10_state.md R40), every engine step is a completion (R41), so no
step stops the machine (00_scope.md R14). -/

namespace Sys2Proof.Machine

@[simp] theorem completion_busy (s : State) (out : ExecOut) : (s.completion out).status.busy = false := by
  cases out <;> rfl

@[simp] theorem completion_done (s : State) (out : ExecOut) : (s.completion out).status.done = true := by
  cases out <;> rfl

/-- Whatever word is pending, command or not, the engine's step is a completion, after some number of draws. -/
theorem engineStep_eq_completion (s : State) :
    ∃ k out, engineStep s = .next ((s.takeDraws k).completion out) := by
  rw [engineStep_eq]
  cases decode s.cmd with
  | ok i => exact ⟨(outcomeOf i s).2, (outcomeOf i s).1, rfl⟩
  | error e => exact ⟨0, .err .opcode, by rw [takeDraws_zero, completion_err]⟩

theorem step_eq_completion_of_engineTurn {s : State} (h : s.engineTurn = true) :
    ∃ k out, step s = .next ((s.turnTaken.takeDraws k).completion out) := by
  obtain ⟨-, hstep⟩ | ⟨hhost, -⟩ := step_cases s
  · rw [hstep]
    exact engineStep_eq_completion s.turnTaken
  · rw [h] at hhost
    cases hhost

theorem step_eq_next (s : State) : ∃ t, step s = .next t := by
  obtain ⟨hengine, -⟩ | ⟨-, hstep⟩ := step_cases s
  · obtain ⟨k, out, hstep⟩ := step_eq_completion_of_engineTurn hengine
    exact ⟨_, hstep⟩
  · exact ⟨_, hstep⟩

/-- Settles O9: the host's turn always answers a state, and the engine's turn is a completion. -/
theorem stepAlwaysGoesOn : Obligations.StepAlwaysGoesOn := by
  refine ⟨step_eq_next, fun s hengine => ?_⟩
  obtain ⟨k, out, hstep⟩ := step_eq_completion_of_engineTurn hengine
  exact ⟨_, hstep, completion_busy _ out, completion_done _ out⟩

end Sys2Proof.Machine
end

section
/-! PROOFS. What a turn does, said once: what each command's outcome can be, what its completion leaves
unchanged (10_state.md R40, R41), and everything a turn of the host can do (20_memory.md R60 to R76). -/

namespace Sys2Proof.Machine

/-! The schedule at the engine's turn (log 2, log 3). -/

/-- The engine's turn may use up a `complete` of the schedule, and nothing else. -/
theorem turnTaken_eq (s : State) :
    s.turnTaken = { s with env := { s.env with schedule := s.turnTaken.env.schedule } } := by
  unfold State.turnTaken
  split <;> rfl

theorem step_eq_engineStep {s : State} (h : s.engineTurn = true) : step s = engineStep s.turnTaken := if_pos h

/-! Frames of a completion (10_state.md R40). -/

section
variable (s : State) (out : ExecOut)

@[simp] theorem completion_width : (s.completion out).width = s.width := by cases out <;> rfl
@[simp] theorem completion_a : (s.completion out).a = s.a := by cases out <;> rfl
@[simp] theorem completion_b : (s.completion out).b = s.b := by cases out <;> rfl
@[simp] theorem completion_n : (s.completion out).n = s.n := by cases out <;> rfl
@[simp] theorem completion_cmd : (s.completion out).cmd = s.cmd := by cases out <;> rfl
@[simp] theorem completion_ctrl : (s.completion out).ctrl = s.ctrl := by cases out <;> rfl
@[simp] theorem completion_rounds : (s.completion out).rounds = s.rounds := by cases out <;> rfl
@[simp] theorem completion_scratch : (s.completion out).scratch = s.freeScratch := by cases out <;> rfl
@[simp] theorem completion_env : (s.completion out).env = { s.env with fills := s.env.fills + 1 } := by
  cases out <;> rfl
@[simp] theorem completion_busyErr : (s.completion out).status.busyErr = s.status.busyErr := by cases out <;> rfl

@[simp] theorem completion_irq : (s.completion out).irq = s.ctrl.ie := by simp [State.irq]

theorem completion_r_eq_or : (s.completion out).r = s.r ∨ ∃ v, out = .result v := by
  cases out with
  | result v => exact .inr ⟨v, rfl⟩
  | verdict p => exact .inl rfl
  | err c => exact .inl rfl

theorem completion_prime_eq_or : (s.completion out).status.prime = s.status.prime ∨ ∃ p, out = .verdict p := by
  cases out with
  | result v => exact .inl rfl
  | verdict p => exact .inr ⟨p, rfl⟩
  | err c => exact .inl rfl

theorem completion_err_eq_or :
    ((s.completion out).status.err = s.status.err ∧ (s.completion out).status.errCode = s.status.errCode) ∨
    ∃ c, out = .err c := by
  cases out with
  | result v => exact .inl ⟨rfl, rfl⟩
  | verdict p => exact .inl ⟨rfl, rfl⟩
  | err c => exact .inr ⟨c, rfl⟩

end

/-! The outcomes of the commands (10_state.md R22, R23, R41). -/

theorem sqMulBit_lt {n : Nat} (hn : 0 < n) (a : Nat) (bit : Bool) (x : Nat) : sqMulBit a n bit x < n := by
  cases bit <;> exact Nat.mod_lt _ hn

theorem sqMulLoop_lt {n : Nat} (hn : 0 < n) (a b : Nat) : ∀ (i x : Nat), x < n → sqMulLoop a b n i x < n
  | 0, _, hx => hx
  | i + 1, x, _ => sqMulLoop_lt hn a b i _ (sqMulBit_lt hn a (b.testBit i) x)

theorem sqMul_lt {n : Nat} (hn : 0 < n) (a b : Nat) : sqMul a b n < n :=
  sqMulLoop_lt hn a b (bitlen b) _ (Nat.mod_lt 1 hn)

/-- A value for R comes from MODMUL, MODEXP or MODEXP.C, and is a residue modulo N. -/
theorem outcomeOf_result {i : Instr} {s : State} {v : Nat} (h : (outcomeOf i s).1 = .result v) :
    (i = .modmul ∨ i = .modexp ∨ i = .modexpC) ∧ v < s.n := by
  cases i with
  | modmul =>
    simp only [outcomeOf, modmulOut] at h
    split at h
    · cases h
    next hn => cases h; exact ⟨by decide, Nat.mod_lt _ (Nat.pos_of_ne_zero hn)⟩
  | modexp =>
    simp only [outcomeOf, modexpOut] at h
    split at h
    · cases h
    next hn => cases h; exact ⟨by decide, sqMul_lt (Nat.pos_of_ne_zero hn) _ _⟩
  | modexpC =>
    simp only [outcomeOf, modexpCOut] at h
    split at h
    · cases h
    next hn => cases h; exact ⟨by decide, sqMul_lt (Nat.zero_lt_of_lt (Nat.lt_of_not_le hn)) _ _⟩
  | mrtest => cases h
  | mrwit =>
    simp only [outcomeOf, mrwitOut] at h
    split at h
    · cases h
    · split at h <;> cases h

/-- A verdict for PRIME comes from MRTEST or MRWIT. -/
theorem outcomeOf_verdict {i : Instr} {s : State} {p : Bool} (h : (outcomeOf i s).1 = .verdict p) :
    i = .mrtest ∨ i = .mrwit := by
  cases i with
  | modmul => simp only [outcomeOf, modmulOut] at h; split at h <;> cases h
  | modexp => simp only [outcomeOf, modexpOut] at h; split at h <;> cases h
  | modexpC => simp only [outcomeOf, modexpCOut] at h; split at h <;> cases h
  | mrtest => exact .inl rfl
  | mrwit => exact .inr rfl

/-- MRTEST ends with no error (42_millerrabin.md R178). -/
theorem outcomeOf_err {i : Instr} {s : State} {c : ErrCode} (h : (outcomeOf i s).1 = .err c) : i ≠ .mrtest := by
  rintro rfl
  cases h

/-- Only MRTEST draws, so any other command is its completion alone. -/
theorem exec_eq_completion {i : Instr} (s : State) (hi : i ≠ .mrtest) :
    exec i s = .next (s.completion (outcomeOf i s).1) := by
  rw [exec_eq]
  cases i with
  | mrtest => exact absurd rfl hi
  | _ => rfl

/-- A pending word is a command, or it ends with `ERR_OPCODE` (10_state.md R41). -/
theorem engineStep_cases (s : State) :
    (∃ i, decode s.cmd = .ok i ∧
      engineStep s = .next ((s.takeDraws (outcomeOf i s).2).completion (outcomeOf i s).1)) ∨
    ((∃ e, decode s.cmd = .error e) ∧ engineStep s = .next (s.completion (.err .opcode))) := by
  rw [engineStep_eq]
  cases decode s.cmd with
  | ok i => exact .inl ⟨i, rfl, rfl⟩
  | error e => exact .inr ⟨⟨e, rfl⟩, rfl⟩

/-! The host's turn (20_memory.md R60, R70 to R76). -/

/-- Everything a host's turn can do to the block, with who does it; `e` is the environment it leaves. -/
inductive HostEffect (s : State) : State → Prop where
  | quiet (e : Env) : HostEffect s { s with env := e }
  | discarded (e : Env) (g : Reg) : s.WritesReg g → g.locked = true → s.status.busy = true →
      HostEffect s { s with status := s.status.discarded, env := e }
  | accepted (e : Env) (v : Word) : s.WritesReg .cmd → s.status.busy = false →
      HostEffect s { s.accept v with env := e }
  | acknowledged (e : Env) (v : Word) : s.WritesReg .status → HostEffect s { s.acknowledge v with env := e }
  | reset (e : Env) : s.ResetsNext → HostEffect s { s.resetBlock with env := e }
  | control (e : Env) (ie : Bool) : s.WritesReg .ctrl → HostEffect s { s with ctrl := { ie := ie }, env := e }
  | rounds (e : Env) (v : Word) : s.WritesReg .rounds → s.status.busy = false →
      HostEffect s { s with rounds := v, env := e }
  | word (e : Env) (q : Wide) (i : Nat) (v : Word) : s.WritesReg (.word q i) → q ≠ .R → s.status.busy = false →
      HostEffect s { s.setWide q (wordSet (s.wide q) i v) with env := e }

theorem hostWrite_effect {s : State} {off : Offset} {v : Word} (h : s.writesNext = some (off, v)) :
    HostEffect s (s.popEvent.hostWrite off v) := by
  obtain ⟨-, hw⟩ | ⟨g, hg, ⟨hb, hl, hw⟩ | ⟨hu, hw⟩⟩ := busWrite_cases s.popEvent off v <;>
    simp only [State.hostWrite, hw]
  · exact .quiet _
  · exact .discarded _ g ⟨off, v, h, hg⟩ hl hb
  · have hreg : s.WritesReg g := ⟨off, v, h, hg⟩
    have hidle : g.locked = true → s.status.busy = false := fun hl => hu.resolve_right (by simp [hl])
    cases g with
    | cmd => exact .accepted _ v hreg (hidle rfl)
    | status => exact .acknowledged _ v hreg
    | ctrl =>
      simp only [State.writeUnlocked, State.writeCtrl]
      split
      · exact .reset _ (.inr ⟨off, v, h, hg, ‹_›⟩)
      · exact .control _ _ hreg
    | rounds => exact .rounds _ v hreg (hidle rfl)
    | width => exact .quiet _
    | word q i =>
      cases q with
      | R => exact .quiet _
      | A => exact .word _ .A i v hreg (by decide) (hidle rfl)
      | B => exact .word _ .B i v hreg (by decide) (hidle rfl)
      | N => exact .word _ .N i v hreg (by decide) (hidle rfl)

theorem hostWait_eq (s : State) : ∃ e, s.hostWait = { s with env := e } := by
  unfold State.hostWait
  split <;> exact ⟨_, rfl⟩

/-- The host's turn has one of the effects of `HostEffect`. -/
theorem hostTurn_effect (s : State) : HostEffect s s.hostTurn := by
  unfold State.hostTurn
  split
  next => exact .quiet s.env
  next h => exact hostWrite_effect (by rw [State.writesNext, h])
  next h => exact hostWrite_effect (by rw [State.writesNext, h])
  next => exact .quiet _
  next => obtain ⟨e, he⟩ := hostWait_eq s; rw [he]; exact .quiet e
  next => exact .quiet _
  next h => exact .reset _ (.inl (by rw [h]; rfl))
  next => exact .quiet _

/-- A step is the engine's completion of the pending word, or a turn of the host. -/
theorem step_next_cases {s t : State} (h : step s = .next t) :
    (s.engineTurn = true ∧ engineStep s.turnTaken = .next t) ∨ (s.engineTurn = false ∧ HostEffect s t) := by
  obtain ⟨hengine, hstep⟩ | ⟨hhost, hstep⟩ := step_cases s
  · exact .inl ⟨hengine, hstep ▸ h⟩
  · rw [hstep] at h
    cases h
    exact .inr ⟨hhost, hostTurn_effect s⟩

end Sys2Proof.Machine
end

section
/-! PROOFS. The invariant (10_state.md R20, R26, R27, R38; 60_exceptions.md R241): it holds at reset, and a completion
and every effect of a host's turn keep it. -/

namespace Sys2Proof.Machine

/-! STATUS stays consistent under every change of its fields (10_state.md R26). -/

section
variable {st : Status}

theorem consistent_reset : Status.reset.Consistent := by decide

theorem consistent_accepted : st.accepted.Consistent := by simp [Status.Consistent, accepted_eq]

theorem consistent_completed (h : st.Consistent) : st.completed.Consistent := ⟨nofun, h.2⟩

theorem consistent_judged (h : st.Consistent) (p : Bool) : (st.judged p).Consistent := ⟨nofun, h.2⟩

theorem consistent_failed (c : ErrCode) : (st.failed c).Consistent := by
  refine ⟨nofun, ?_⟩
  cases c <;> simp [failed_eq, ErrCode.code]

theorem consistent_cleared (h : st.Consistent) (v : Word) : (st.cleared v).Consistent := by
  obtain ⟨hbusy, herr, hcode⟩ := h
  refine ⟨fun hb => ?_, ?_⟩
  · obtain ⟨hdone, herr0, hcode0⟩ := hbusy hb
    simp [Status.cleared, hdone, herr0, hcode0]
  · by_cases hv : v[2] = true
    · simp [Status.cleared, hv]
    · simpa [Status.cleared, hv] using ⟨herr, hcode⟩

end

/-! At reset (10_state.md R45). -/

theorem scratchReset_fits (w : Nat) : Scratch.reset.Fits w := by
  have hpos := Nat.two_pow_pos w
  exact ⟨hpos, hpos, hpos, hpos, hpos, by decide⟩

/-- Settles O6: the wide registers and the scratch registers hold 0, and no command is pending. -/
theorem invariantAtReset : Obligations.InvariantAtReset := by
  intro w env hw
  have hpos := Nat.two_pow_pos w
  exact ⟨hw, ⟨hpos, hpos, hpos, hpos⟩, consistent_reset, scratchReset_fits w, ⟨fun _ => rfl, fun _ => rfl⟩⟩

/-! Each kind of step keeps the invariant. -/

section
variable {s : State}

theorem consistent_completion (h : s.status.Consistent) (out : ExecOut) :
    (s.completion out).status.Consistent := by
  cases out with
  | result v => exact consistent_completed h
  | verdict p => exact consistent_judged h p
  | err c => exact consistent_failed c

theorem wideFits_completion (h : s.WideFits) {out : ExecOut} (hout : ∀ v, out = .result v → v < 2 ^ s.width) :
    (s.completion out).WideFits := by
  obtain ⟨ha, hb, hn, hr⟩ := h
  cases out with
  | result v => exact ⟨ha, hb, hn, hout v rfl⟩
  | verdict p => exact ⟨ha, hb, hn, hr⟩
  | err c => exact ⟨ha, hb, hn, hr⟩

theorem inv_completion (h : s.Inv) {out : ExecOut} (hout : ∀ v, out = .result v → v < 2 ^ s.width) :
    (s.completion out).Inv := by
  obtain ⟨hwidth, hwide, hstatus, -, -⟩ := h
  refine ⟨?_, wideFits_completion hwide hout, consistent_completion hstatus out, ?_, ?_⟩
  · rwa [completion_width]
  · rw [completion_width, completion_scratch]
    exact freeScratch_fits s
  · simp

/-- The engine writes to R only a residue modulo N, so R fits because N does. -/
theorem inv_engineStep {t : State} (h : s.Inv) (hstep : engineStep s = .next t) : t.Inv := by
  obtain ⟨i, -, heq⟩ | ⟨-, heq⟩ := engineStep_cases s <;> rw [heq] at hstep <;> cases hstep
  · have hdraws : (s.takeDraws (outcomeOf i s).2).Inv := h
    obtain ⟨-, ⟨-, -, hn, -⟩, -⟩ := h
    exact inv_completion hdraws fun v hv => (outcomeOf_result hv).2.trans hn
  · exact inv_completion h nofun

theorem inv_turnTaken (h : s.Inv) : s.turnTaken.Inv := by
  rw [turnTaken_eq]
  exact h

theorem wideFits_setWide {q : Wide} {v : Nat} (h : s.WideFits) (hv : v < 2 ^ s.width) : (s.setWide q v).WideFits := by
  obtain ⟨ha, hb, hn, hr⟩ := h
  cases q with
  | A => exact ⟨hv, hb, hn, hr⟩
  | B => exact ⟨ha, hv, hn, hr⟩
  | N => exact ⟨ha, hb, hv, hr⟩
  | R => exact ⟨ha, hb, hn, hv⟩

theorem wide_lt (h : s.WideFits) (q : Wide) : s.wide q < 2 ^ s.width := by
  obtain ⟨ha, hb, hn, hr⟩ := h
  cases q with
  | A => exact ha
  | B => exact hb
  | N => exact hn
  | R => exact hr

theorem inv_setWide {q : Wide} {v : Nat} (h : s.Inv) (hv : v < 2 ^ s.width) : (s.setWide q v).Inv := by
  obtain ⟨hwidth, hwide, hstatus, hscratch, hphase⟩ := h
  refine ⟨?_, wideFits_setWide hwide hv, ?_, ?_, ?_⟩
  · rwa [setWide_width]
  · rwa [setWide_status]
  · rwa [setWide_width, setWide_scratch]
  · rwa [setWide_scratch, setWide_status]

theorem inv_resetBlock (h : Config.LegalWidth s.width) : s.resetBlock.Inv := by
  have hpos := Nat.two_pow_pos s.width
  exact ⟨h, ⟨hpos, hpos, hpos, hpos⟩, consistent_reset, freeScratch_fits s, ⟨fun _ => rfl, fun _ => rfl⟩⟩

/-- The environment is no part of the invariant, so each effect needs it for the block alone. -/
theorem inv_hostEffect {t : State} (h : s.Inv) (heff : HostEffect s t) : t.Inv := by
  have hinv := h
  obtain ⟨hwidth, hwide, hstatus, hscratch, hphase⟩ := h
  cases heff with
  | quiet e => exact hinv
  | discarded e g => exact hinv
  | accepted e v => exact ⟨hwidth, hwide, consistent_accepted, hscratch, by simp [accepted_eq]⟩
  | acknowledged e v => exact ⟨hwidth, hwide, consistent_cleared hstatus v, hscratch, hphase⟩
  | reset e => exact inv_resetBlock hwidth
  | control e ie => exact hinv
  | rounds e v => exact hinv
  | word e q i v hreg =>
    obtain ⟨off, -, -, hreg⟩ := hreg
    exact inv_setWide hinv (wordSet_lt (wide_lt hwide q) hwidth.1 (regAt_word hreg))

end

/-- Settles O7: the engine's turn is a completion, the host's turn has one of the effects of `HostEffect`, and both keep
the invariant. -/
theorem stepKeepsInvariant : Obligations.StepKeepsInvariant := by
  intro s t hinv hstep
  obtain ⟨-, hengine⟩ | ⟨-, heff⟩ := step_next_cases hstep
  · exact inv_engineStep (inv_turnTaken hinv) hengine
  · exact inv_hostEffect hinv heff

/-- Settles O8, by induction on the run. -/
theorem reachableStatesKeepInvariant : Obligations.ReachableStatesKeepInvariant := by
  intro s hs
  induction hs with
  | start w env hw => exact invariantAtReset w env hw
  | next s t _ hstep ih => exact stepKeepsInvariant s t ih hstep

end Sys2Proof.Machine
end

section
/-! PROOFS. Who writes which register (10_state.md R22 to R26, R39; 20_memory.md R83): what the engine's turn and each
effect of a host's turn leave unchanged. -/

namespace Sys2Proof.Machine

section
variable (s : State)

@[simp] theorem turnTaken_width : s.turnTaken.width = s.width := by rw [turnTaken_eq]
@[simp] theorem turnTaken_a : s.turnTaken.a = s.a := by rw [turnTaken_eq]
@[simp] theorem turnTaken_b : s.turnTaken.b = s.b := by rw [turnTaken_eq]
@[simp] theorem turnTaken_n : s.turnTaken.n = s.n := by rw [turnTaken_eq]
@[simp] theorem turnTaken_r : s.turnTaken.r = s.r := by rw [turnTaken_eq]
@[simp] theorem turnTaken_cmd : s.turnTaken.cmd = s.cmd := by rw [turnTaken_eq]
@[simp] theorem turnTaken_status : s.turnTaken.status = s.status := by rw [turnTaken_eq]
@[simp] theorem turnTaken_ctrl : s.turnTaken.ctrl = s.ctrl := by rw [turnTaken_eq]
@[simp] theorem turnTaken_rounds : s.turnTaken.rounds = s.rounds := by rw [turnTaken_eq]

end

variable {s t : State}

/-! The engine's turn. -/

theorem eq_completion_of_engineStep (h : engineStep s = .next t) :
    ∃ k out, t = (s.takeDraws k).completion out := by
  obtain ⟨k, out, heq⟩ := engineStep_eq_completion s
  exact ⟨k, out, Host.Outcome.next.inj (h.symm.trans heq)⟩

/-- No word's completion touches a register that only the host writes. -/
theorem engineStep_keeps (h : engineStep s = .next t) :
    t.a = s.a ∧ t.b = s.b ∧ t.n = s.n ∧ t.cmd = s.cmd ∧ t.rounds = s.rounds ∧ t.ctrl = s.ctrl ∧
    t.status.busyErr = s.status.busyErr ∧ t.width = s.width := by
  obtain ⟨k, out, rfl⟩ := eq_completion_of_engineStep h
  simp

theorem engineStep_busy (h : engineStep s = .next t) : t.status.busy = false := by
  obtain ⟨k, out, rfl⟩ := eq_completion_of_engineStep h
  exact completion_busy _ out

/-- R is written by MODMUL, MODEXP and MODEXP.C alone: no other word's outcome is a value. -/
theorem engineStep_writes_r (h : engineStep s = .next t) (hr : t.r ≠ s.r) :
    decode s.cmd = .ok .modmul ∨ decode s.cmd = .ok .modexp ∨ decode s.cmd = .ok .modexpC := by
  obtain ⟨i, hi, heq⟩ | ⟨-, heq⟩ := engineStep_cases s <;> rw [heq] at h <;> cases h
  · obtain hkept | ⟨v, hv⟩ := completion_r_eq_or (s.takeDraws (outcomeOf i s).2) (outcomeOf i s).1
    · exact absurd hkept hr
    · obtain ⟨rfl | rfl | rfl, -⟩ := outcomeOf_result hv
      · exact .inl hi
      · exact .inr (.inl hi)
      · exact .inr (.inr hi)
  · exact absurd rfl hr

/-- PRIME is written by MRTEST and MRWIT alone: no other word's outcome is a verdict. -/
theorem engineStep_writes_prime (h : engineStep s = .next t) (hp : t.status.prime ≠ s.status.prime) :
    decode s.cmd = .ok .mrtest ∨ decode s.cmd = .ok .mrwit := by
  obtain ⟨i, hi, heq⟩ | ⟨-, heq⟩ := engineStep_cases s <;> rw [heq] at h <;> cases h
  · obtain hkept | ⟨p, hv⟩ := completion_prime_eq_or (s.takeDraws (outcomeOf i s).2) (outcomeOf i s).1
    · exact absurd hkept hp
    · obtain rfl | rfl := outcomeOf_verdict hv
      · exact .inl hi
      · exact .inr hi
  · exact absurd rfl hp

/-! The host's turn. -/

theorem hostEffect_width (h : HostEffect s t) : t.width = s.width := by
  cases h with
  | word e q i v => exact setWide_width s q _
  | _ => rfl

theorem hostEffect_wide (h : HostEffect s t) {q : Wide} (hq : t.wide q ≠ s.wide q) :
    s.ResetsNext ∨ q ≠ .R ∧ s.status.busy = false ∧ ∃ i, s.WritesReg (.word q i) := by
  cases h with
  | reset e hreset => exact .inl hreset
  | word e p i v hreg hp hidle =>
    by_cases hpq : q = p
    · subst hpq
      exact .inr ⟨hp, hidle, i, hreg⟩
    · exact absurd (setWide_other s p q _ hpq) hq
  | _ => exact absurd rfl hq

theorem hostEffect_prime (h : HostEffect s t) (hp : t.status.prime ≠ s.status.prime) : s.ResetsNext := by
  cases h with
  | reset e hreset => exact hreset
  | word e q i v => exact absurd (congrArg Status.prime (setWide_status s q _)) hp
  | _ => exact absurd rfl hp

theorem hostEffect_cmd (h : HostEffect s t) (hc : t.cmd ≠ s.cmd) :
    s.ResetsNext ∨ s.status.busy = false ∧ s.WritesReg .cmd := by
  cases h with
  | accepted e v hreg hidle => exact .inr ⟨hidle, hreg⟩
  | reset e hreset => exact .inl hreset
  | word e q i v => exact absurd (setWide_cmd s q _) hc
  | _ => exact absurd rfl hc

theorem hostEffect_rounds (h : HostEffect s t) (hk : t.rounds ≠ s.rounds) :
    s.ResetsNext ∨ s.status.busy = false ∧ s.WritesReg .rounds := by
  cases h with
  | rounds e v hreg hidle => exact .inr ⟨hidle, hreg⟩
  | reset e hreset => exact .inl hreset
  | word e q i v => exact absurd (setWide_rounds s q _) hk
  | _ => exact absurd rfl hk

theorem hostEffect_ctrl (h : HostEffect s t) (hc : t.ctrl ≠ s.ctrl) : s.ResetsNext ∨ s.WritesReg .ctrl := by
  cases h with
  | control e ie hreg => exact .inr hreg
  | reset e hreset => exact .inl hreset
  | word e q i v => exact absurd (setWide_ctrl s q _) hc
  | _ => exact absurd rfl hc

theorem hostEffect_busy (h : HostEffect s t) (hb : t.status.busy ≠ s.status.busy) :
    s.ResetsNext ∧ t.status.busy = false ∨ s.WritesReg .cmd ∧ t.status.busy = true := by
  cases h with
  | accepted e v hreg => exact .inr ⟨hreg, rfl⟩
  | reset e hreset => exact .inl ⟨hreset, rfl⟩
  | word e q i v => exact absurd (congrArg Status.busy (setWide_status s q _)) hb
  | _ => exact absurd rfl hb

theorem hostEffect_busyErr (h : HostEffect s t) (hb : t.status.busyErr ≠ s.status.busyErr) :
    (s.ResetsNext ∨ s.WritesReg .status) ∧ t.status.busyErr = false ∨
    (s.status.busy = true ∧ ∃ g, s.WritesReg g ∧ g.locked = true) ∧ t.status.busyErr = true := by
  cases h with
  | discarded e g hreg hlocked hbusy => exact .inr ⟨⟨hbusy, g, hreg, hlocked⟩, rfl⟩
  | acknowledged e v hreg =>
    refine .inl ⟨.inr hreg, ?_⟩
    cases hold : s.status.busyErr <;> simp_all [Status.cleared]
  | reset e hreset => exact .inl ⟨.inl hreset, rfl⟩
  | word e q i v => exact absurd (congrArg Status.busyErr (setWide_status s q _)) hb
  | _ => exact absurd rfl hb

/-- A, B and N change by a reset or by a write to one of their words while not busy. -/
theorem hostEffect_operand (h : HostEffect s t) {q : Wide} (hq : t.wide q ≠ s.wide q) :
    s.ResetsNext ∨ s.status.busy = false ∧ ∃ i, s.WritesReg (.word q i) :=
  (hostEffect_wide h hq).imp_right fun ⟨_, hwrite⟩ => hwrite

/-- R ignores a host write, so it changes by a reset alone. -/
theorem hostEffect_r (h : HostEffect s t) (hr : t.r ≠ s.r) : s.ResetsNext :=
  (hostEffect_wide h (q := .R) hr).resolve_right fun ⟨hR, _⟩ => hR rfl

/-- Settles O33: the engine's turn writes R and PRIME alone, and each effect of a host's turn its own register. -/
theorem onlyTheirWritersChangeRegisters : Obligations.OnlyTheirWritersChangeRegisters := by
  intro s t hstep
  obtain ⟨hturn, hengine⟩ | ⟨hturn, heff⟩ := step_next_cases hstep
  · obtain ⟨ha, hb, hn, hcmd, hrounds, hctrl, -, hwidth⟩ := engineStep_keeps hengine
    simp only [turnTaken_a, turnTaken_b, turnTaken_n, turnTaken_cmd, turnTaken_rounds, turnTaken_ctrl,
      turnTaken_width] at ha hb hn hcmd hrounds hctrl hwidth
    refine ⟨absurd ha, absurd hb, absurd hn, fun hr => .inr ⟨hturn, ?_⟩, fun hp => .inr ⟨hturn, ?_⟩, absurd hcmd,
      absurd hrounds, absurd hctrl, hwidth⟩
    · simpa using engineStep_writes_r hengine (by simpa using hr)
    · simpa using engineStep_writes_prime hengine (by simpa using hp)
  · exact ⟨fun ha => ⟨hturn, hostEffect_operand heff (q := .A) ha⟩,
      fun hb => ⟨hturn, hostEffect_operand heff (q := .B) hb⟩,
      fun hn => ⟨hturn, hostEffect_operand heff (q := .N) hn⟩,
      fun hr => .inl (hostEffect_r heff hr), fun hp => .inl (hostEffect_prime heff hp),
      hostEffect_cmd heff, hostEffect_rounds heff, hostEffect_ctrl heff, hostEffect_width heff⟩

/-- Settles O34: the engine's turn clears BUSY and keeps BUSYERR; of the effects of a host's turn, those that change
either name their writer. -/
theorem onlyCmdWriteStartsCommand : Obligations.OnlyCmdWriteStartsCommand := by
  intro s t hstep
  obtain ⟨hturn, hengine⟩ | ⟨hturn, heff⟩ := step_next_cases hstep
  · have hbusy := engineStep_busy hengine
    obtain ⟨-, -, -, -, -, -, hbusyErr, -⟩ := engineStep_keeps hengine
    rw [turnTaken_status] at hbusyErr
    refine ⟨fun _ hset => ?_, fun _ _ => .inl hturn, fun hclear hset => ?_, fun hset hclear => ?_⟩
    · simp [hbusy] at hset
    · simp [hbusyErr, hclear] at hset
    · simp [hbusyErr, hset] at hclear
  · refine ⟨fun hold hnew => ?_, fun hold hnew => ?_, fun hold hnew => ?_, fun hold hnew => ?_⟩
    · obtain ⟨-, hclear⟩ | ⟨hcmd, -⟩ := hostEffect_busy heff (by simp [hold, hnew])
      · simp [hclear] at hnew
      · exact hcmd
    · obtain ⟨hreset, -⟩ | ⟨-, hset⟩ := hostEffect_busy heff (by simp [hold, hnew])
      · exact .inr hreset
      · simp [hset] at hnew
    · obtain ⟨-, hclear⟩ | ⟨hlocked, -⟩ := hostEffect_busyErr heff (by simp [hold, hnew])
      · simp [hclear] at hnew
      · exact hlocked
    · obtain ⟨hwriter, -⟩ | ⟨-, hset⟩ := hostEffect_busyErr heff (by simp [hold, hnew])
      · exact hwriter
      · simp [hset] at hnew

end Sys2Proof.Machine
end

section
/-! PROOFS. Frames and noninterference of the commands (10_state.md R21 to R23, R31, R38, R40). -/

namespace Sys2Proof.Machine

/-! What the host reads (20_memory.md R61). -/

/-- A read sees the register it addresses and nothing else. -/
theorem busRead_congr {s t : State} {off : Offset} (hwidth : t.width = s.width)
    (hreg : ∀ g, regAt s.width off = some g → t.readReg g = s.readReg g) : t.busRead off = s.busRead off := by
  unfold State.busRead
  rw [hwidth]
  cases h : regAt s.width off with
  | none => rfl
  | some g => exact congrArg (Prod.mk Resp.ok) (hreg g h)

theorem readReg_completion (s : State) (out : ExecOut) {g : Reg} (hg : g ≠ .status)
    (hr : (s.completion out).r = s.r ∨ ∀ j, g ≠ .word .R j) : (s.completion out).readReg g = s.readReg g := by
  cases g with
  | status => exact absurd rfl hg
  | word q j =>
    cases q with
    | R => exact congrArg (wordGet · j) (hr.resolve_right fun h => h j rfl)
    | _ => simp [State.readReg, State.wide]
  | _ => simp [State.readReg]

theorem busRead_completion (s : State) (out : ExecOut) {off : Offset} (hoff : regAt s.width off ≠ some .status)
    (hr : (s.completion out).r = s.r ∨ ∀ j, regAt s.width off ≠ some (.word .R j)) :
    (s.completion out).busRead off = s.busRead off := by
  refine busRead_congr (completion_width s out) fun g hg => ?_
  rw [hg] at hoff hr
  exact readReg_completion s out (fun h => hoff (congrArg some h)) (hr.imp_right fun h j hj => h j (congrArg some hj))

/-! The frames of the commands. -/

/-- Settles O30: an arithmetic command draws nothing and its outcome is a value or an error. -/
theorem arithmeticCommandsFrame : Obligations.ArithmeticCommandsFrame := by
  intro s i hi
  have hmrtest : i ≠ .mrtest := by rintro rfl; simp at hi
  have hmrwit : i ≠ .mrwit := by rintro rfl; simp at hi
  have hprime : (s.completion (outcomeOf i s).1).status.prime = s.status.prime :=
    (completion_prime_eq_or s _).resolve_right fun ⟨_, hp⟩ => (outcomeOf_verdict hp).elim hmrtest hmrwit
  have herr_or_r := (completion_err_eq_or s (outcomeOf i s).1).imp_right fun ⟨c, hc⟩ =>
    show (s.completion (outcomeOf i s).1).r = s.r by rw [hc]; rfl
  refine ⟨_, exec_eq_completion s hmrtest, ?_⟩
  simpa [hprime, herr_or_r] using fun off hstatus hr => busRead_completion s _ hstatus (.inr hr)

/-- A tester command ends with a verdict or an error, so it does not write R (10_state.md R22). -/
theorem completion_r_of_tester {i : Instr} (s u : State) (hi : i = .mrtest ∨ i = .mrwit) :
    (u.completion (outcomeOf i s).1).r = u.r := by
  refine (completion_r_eq_or u _).resolve_right fun ⟨v, hv⟩ => ?_
  obtain ⟨harith, -⟩ := outcomeOf_result hv
  obtain rfl | rfl := hi <;> simp at harith

/-- MRTEST keeps ERR, and MRWIT writes either ERR or PRIME (42_millerrabin.md R178, R179). -/
theorem completion_err_of_tester {i : Instr} (s u : State) (hi : i = .mrtest ∨ i = .mrwit) :
    ((u.completion (outcomeOf i s).1).status.err = u.status.err ∧
      (u.completion (outcomeOf i s).1).status.errCode = u.status.errCode) ∨
    (i = .mrwit ∧ (u.completion (outcomeOf i s).1).status.prime = u.status.prime) := by
  refine (completion_err_eq_or u _).imp_right fun ⟨c, hc⟩ => ⟨hi.resolve_left (outcomeOf_err hc), ?_⟩
  rw [hc]
  rfl

/-- Settles O31: the two commands may differ in draws, which no register holds. -/
theorem testerCommandsFrame : Obligations.TesterCommandsFrame := by
  intro s i hi
  have hr := completion_r_of_tester s (s.takeDraws (outcomeOf i s).2) hi
  have herr := completion_err_of_tester s (s.takeDraws (outcomeOf i s).2) hi
  have hdraws : (outcomeOf .mrwit s).2 = 0 := rfl
  have hread : ∀ off, regAt s.width off ≠ some .status → _ :=
    fun _ hoff => busRead_completion (s.takeDraws (outcomeOf i s).2) _ hoff (.inl hr)
  refine ⟨_, exec_eq i s, ?_⟩
  simpa +contextual [hr, hdraws] using ⟨herr, hread⟩

/-! What a command reads (10_state.md R21, R31). -/

/-- No command's outcome, nor the draws it makes, depends on R, STATUS or CTRL. -/
theorem outcomeOf_unread (i : Instr) (s : State) (r : Nat) (st : Status) (ctrl : Ctrl) :
    outcomeOf i { s with r := r, status := st, ctrl := ctrl } = outcomeOf i s := by
  cases i <;> rfl

/-- Only MRTEST reads ROUNDS. -/
theorem outcomeOf_rounds {i : Instr} (hi : i ≠ .mrtest) (s : State) (rounds : Word) :
    outcomeOf i { s with rounds := rounds } = outcomeOf i s := by
  cases i with
  | mrtest => exact absurd rfl hi
  | _ => rfl

theorem completion_with_rounds (s : State) (out : ExecOut) (rounds : Word) :
    { s with rounds := rounds }.completion out = { s.completion out with rounds := rounds } := by
  cases out <;> rfl

theorem completion_with_ctrl_busyErr (s : State) (out : ExecOut) (ctrl : Ctrl) (busyErr : Bool) :
    { s with ctrl := ctrl, status := { s.status with busyErr := busyErr } }.completion out =
      { s.completion out with ctrl := ctrl, status := { (s.completion out).status with busyErr := busyErr } } := by
  cases out <;> rfl

/-- Settles O32: the outcome does not depend on the registers named, and a completion passes on what it does not
write. -/
theorem unreadRegistersHaveNoInfluence : Obligations.UnreadRegistersHaveNoInfluence := by
  refine ⟨fun s a b r => ⟨_, _, exec_eq _ _, exec_eq _ _, rfl⟩, fun s b r rounds => ?mrwit,
    fun s i rounds hi => ?arithmetic, fun s i ctrl busyErr => ?ctrl, fun s i r st ctrl => ?written⟩
  case mrwit =>
    have hsame : outcomeOf .mrwit { s with b := b, r := r, rounds := rounds } = outcomeOf .mrwit s := rfl
    refine ⟨_, _, exec_eq_completion s (by decide), exec_eq_completion _ (by decide), ?_⟩
    rw [hsame]
    cases hout : (outcomeOf .mrwit s).1 with
    | result v => exact absurd (outcomeOf_result hout).1 (by decide)
    | verdict p => rfl
    | err c => rfl
  case arithmetic =>
    have hmrtest : i ≠ .mrtest := by rintro rfl; simp at hi
    refine ⟨_, _, exec_eq_completion s hmrtest, exec_eq_completion _ hmrtest, ?_⟩
    rw [outcomeOf_rounds hmrtest]
    exact completion_with_rounds s _ rounds
  case ctrl =>
    refine ⟨_, _, exec_eq i s, exec_eq i _, ?_⟩
    have hsame := outcomeOf_unread i s s.r { s.status with busyErr := busyErr } ctrl
    rw [hsame]
    exact completion_with_ctrl_busyErr (s.takeDraws (outcomeOf i s).2) _ ctrl busyErr
  case written =>
    refine ⟨_, _, exec_eq i s, exec_eq i _, ?_⟩
    rw [outcomeOf_unread]
    cases (outcomeOf i s).1 with
    | result v => exact ⟨rfl, .inl rfl, .inr ⟨rfl, rfl⟩, .inr ⟨rfl, rfl, rfl, rfl⟩, rfl, rfl, rfl, rfl⟩
    | verdict p => exact ⟨rfl, .inr ⟨rfl, rfl⟩, .inl rfl, .inr ⟨rfl, rfl, rfl, rfl⟩, rfl, rfl, rfl, rfl⟩
    | err c => exact ⟨rfl, .inr ⟨rfl, rfl⟩, .inr ⟨rfl, rfl⟩, .inl ⟨rfl, rfl⟩, rfl, rfl, rfl, rfl⟩

/-! The scratch registers (10_state.md R38). -/

theorem busRead_scratch (s : State) (c : Scratch) (off : Offset) :
    { s with scratch := c }.busRead off = s.busRead off := by
  refine busRead_congr rfl fun g _ => ?_
  cases g with
  | word q i => cases q <;> rfl
  | _ => rfl

/-- A completion forgets the scratch registers, so its result is the same whatever they held. -/
theorem engineStep_scratch (s : State) (c : Scratch) : engineStep { s with scratch := c } = engineStep s := by
  have hout : ∀ i, outcomeOf i { s with scratch := c } = outcomeOf i s := fun i => by cases i <;> rfl
  have hforget : ∀ (u : State) (out : ExecOut), { u with scratch := c }.completion out = u.completion out :=
    fun u out => by cases out <;> rfl
  rw [engineStep_eq, engineStep_eq]
  cases decode s.cmd with
  | ok i =>
    simp only [hout]
    exact congrArg Host.Outcome.next (hforget (s.takeDraws (outcomeOf i s).2) _)
  | error e => exact congrArg Host.Outcome.next (hforget s (.err .opcode))

theorem turnTaken_scratch_eq (s : State) (c : Scratch) :
    { s with scratch := c }.turnTaken = { s.turnTaken with scratch := c } := by
  unfold State.turnTaken
  cases s.env.schedule with
  | nil => rfl
  | cons ev rest => cases ev <;> rfl

/-- A write looks at the scratch registers only to keep them. -/
theorem writeUnlocked_scratch (s : State) (c : Scratch) (v : Word) (g : Reg) :
    ∃ d, { s with scratch := c }.writeUnlocked v g = { s.writeUnlocked v g with scratch := d } := by
  cases g with
  | ctrl =>
    simp only [State.writeUnlocked, State.writeCtrl]
    split <;> exact ⟨_, rfl⟩
  | word q i => cases q <;> exact ⟨_, rfl⟩
  | _ => exact ⟨_, rfl⟩

theorem hostWrite_scratch (s : State) (c : Scratch) (off : Offset) (v : Word) :
    ∃ d, { s with scratch := c }.hostWrite off v = { s.hostWrite off v with scratch := d } := by
  simp only [State.hostWrite, State.busWrite]
  cases regAt s.width off with
  | none => exact ⟨c, rfl⟩
  | some g =>
    simp only [State.writeReg]
    split
    · exact ⟨c, rfl⟩
    · obtain ⟨d, hd⟩ := writeUnlocked_scratch s c v g
      exact ⟨d, by rw [hd]⟩

theorem hostRead_scratch (s : State) (c : Scratch) (off : Offset) :
    { s with scratch := c }.hostRead off = { s.hostRead off with scratch := c } := by
  simp only [State.hostRead, busRead_scratch]

theorem hostWait_scratch (s : State) (c : Scratch) :
    { s with scratch := c }.hostWait = { s.hostWait with scratch := c } := by
  unfold State.hostWait
  split
  · exact hostRead_scratch s.popEvent c _
  · exact hostRead_scratch s c _

theorem hostTurn_scratch (s : State) (c : Scratch) :
    ∃ d, { s with scratch := c }.hostTurn = { s.hostTurn with scratch := d } := by
  unfold State.hostTurn
  cases s.env.schedule with
  | nil => exact ⟨c, rfl⟩
  | cons ev rest =>
    cases ev with
    | write off v => exact hostWrite_scratch s.popEvent c off v
    | writeLast off => exact hostWrite_scratch s.popEvent c off s.env.last
    | read off => exact ⟨c, hostRead_scratch s.popEvent c off⟩
    | wait => exact ⟨c, hostWait_scratch s c⟩
    | expect v => exact ⟨c, rfl⟩
    | reset => exact ⟨_, rfl⟩
    | complete => exact ⟨c, rfl⟩

/-- States that differ in the scratch registers step to states that differ in them at most. -/
theorem step_scratch (s : State) (c : Scratch) :
    ∃ t d, step s = .next t ∧ step { s with scratch := c } = .next { t with scratch := d } := by
  have hturn : { s with scratch := c }.engineTurn = s.engineTurn := rfl
  cases h : s.engineTurn with
  | true =>
    obtain ⟨t, ht⟩ := step_eq_next s
    refine ⟨t, t.scratch, ht, ?_⟩
    rw [step_eq_engineStep (hturn.trans h), turnTaken_scratch_eq, engineStep_scratch, ← step_eq_engineStep h, ht]
  | false =>
    obtain ⟨d, hd⟩ := hostTurn_scratch s c
    exact ⟨s.hostTurn, d, by simp [step, h], by simp [step, hturn, h, hd]⟩

/-- Settles O36: what the two states differ in after the step is neither visible nor read. -/
theorem scratchNeverObserved : Obligations.ScratchNeverObserved := by
  intro s c
  obtain ⟨t, d, ht, hu⟩ := step_scratch s c
  exact ⟨t, { t with scratch := d }, ht, hu, rfl, fun off => (busRead_scratch t d off).symm⟩

end Sys2Proof.Machine
end

section
/-! PROOFS. The decoder and the legal words (30_encoding.md R101 to R105), and the completion of a word that is none
(10_state.md R41). -/

namespace Sys2Proof

/-- A word is the three fields it is read as. -/
theorem wordOf_fieldsOf (w : Word) : wordOf (fieldsOf w) = w := by
  refine BitVec.eq_of_getLsbD_eq fun j hj => ?_
  simp only [wordOf, fieldsOf, BitVec.getLsbD_append, BitVec.getLsbD_extractLsb']
  grind

theorem instrOf_ok {chk : BitVec 1} {op : BitVec 4} {i : Instr} (h : instrOf chk op = .ok i) :
    (⟨0, chk, op⟩ : CmdFields) = i.fields := by
  cases i <;> decide +revert

theorem decode_ok_fields {w : Word} {i : Instr} (h : decode w = .ok i) : fieldsOf w = i.fields := by
  simp only [decode] at h
  split at h
  next hrsv =>
    rw [← instrOf_ok h, ← hrsv]
  next => cases h

/-- A word that decodes to a command is that command's word. -/
theorem eq_encode_of_decode {w : Word} {i : Instr} (h : decode w = .ok i) : w = encode i := by
  rw [encode, ← decode_ok_fields h, wordOf_fieldsOf]

theorem legal_encode (i : Instr) : legal (encode i) = true := by
  cases i <;> decide

theorem decode_of_not_legal {w : Word} (h : legal w = false) : ∃ e, decode w = .error e := by
  cases hw : decode w with
  | error e => exact ⟨e, rfl⟩
  | ok i =>
    rw [eq_encode_of_decode hw, legal_encode] at h
    cases h

namespace Machine

theorem engineStep_of_not_legal {s : State} (h : legal s.cmd = false) :
    engineStep s = .next (s.completeError .opcode) := by
  obtain ⟨e, he⟩ := decode_of_not_legal h
  rw [engineStep_eq, he]

/-- Settles O11: such a word does not decode, and the engine's turn touches nothing else but the schedule. -/
theorem illegalWordEndsWithOpcodeError : Obligations.IllegalWordEndsWithOpcodeError := by
  refine ⟨fun s h => engineStep_of_not_legal h, fun s hturn h => ?_⟩
  rw [step_eq_engineStep hturn, engineStep_of_not_legal (by rwa [turnTaken_cmd]), turnTaken_eq]
  rfl

end Machine
end Sys2Proof
end

section
/-! PROOFS. Whose turn it is, what the host reads of the small registers and of a reset block, and the interrupt line
(10_state.md R24 to R32, R39 to R45). -/

namespace Sys2Proof.Machine

/-! Whose turn it is (log 2, log 3). -/

theorem engineTurn_iff (s : State) : s.engineTurn = true ↔ s.status.busy = true ∧
    (s.env.schedule = [] ∨ s.env.schedule.head? = some .complete ∨
      (s.env.schedule.head? = some .wait ∧ s.status.done = false)) := by
  unfold State.engineTurn
  cases s.env.schedule with
  | nil => simp
  | cons ev rest => cases ev <;> simp

theorem step_of_engineTurn {s : State} {i : Instr} (hturn : s.engineTurn = true) (hi : decode s.cmd = .ok i) :
    step s = exec i s.turnTaken := by
  rw [step_eq_engineStep hturn, engineStep, turnTaken_cmd, hi]

theorem turnTaken_of_complete {s : State} {rest : List Event} (h : s.env.schedule = .complete :: rest) :
    s.turnTaken = { s with env := { s.env with schedule := rest } } := by
  simp only [State.turnTaken, h, State.popEvent, List.tail_cons]

theorem turnTaken_of_not_complete {s : State} (h : s.env.schedule.head? ≠ some .complete) : s.turnTaken = s := by
  unfold State.turnTaken
  split
  next hs => exact absurd (by rw [hs]; rfl) h
  next => rfl

/-- Settles O10: each clause is the lemma above that says it. -/
theorem stepRunsDecodedCommand : Obligations.StepRunsDecodedCommand :=
  ⟨fun _ _ => step_of_engineTurn, fun _ _ => turnTaken_of_complete, fun _ => turnTaken_of_not_complete,
    engineTurn_iff⟩

/-! The first window of the address map (20_memory.md R64), which every width has. -/

@[simp] theorem regAt_cmd (w : Nat) : regAt w 0x0000 = some .cmd := rfl
@[simp] theorem regAt_status (w : Nat) : regAt w 0x0004 = some .status := rfl
@[simp] theorem regAt_ctrl (w : Nat) : regAt w 0x0008 = some .ctrl := rfl
@[simp] theorem regAt_rounds (w : Nat) : regAt w 0x000C = some .rounds := rfl
@[simp] theorem regAt_width (w : Nat) : regAt w 0x0010 = some .width := rfl

theorem busRead_of_regAt {s : State} {off : Offset} {g : Reg} (h : regAt s.width off = some g) :
    s.busRead off = (.ok, s.readReg g) := by
  simp only [State.busRead, h]

/-- A legal width fits the word it is read as. -/
theorem busRead_width {s : State} (h : Config.LegalWidth s.width) :
    ∃ v : Word, s.busRead 0x0010 = (.ok, v) ∧ v.toNat = s.width := by
  refine ⟨_, busRead_of_regAt (regAt_width s.width), ?_⟩
  obtain ⟨-, -, hmax⟩ := h
  simp only [State.readReg, BitVec.toNat_ofNat]
  omega

/-- The bits of STATUS as the host reads it (10_state.md R25). -/
theorem status_toWord_bit (st : Status) (k : Nat) : st.toWord.getLsbD k =
    if k = 0 then st.busy else if k = 1 then st.done else if k = 2 then st.err else if k = 3 then st.prime
    else if k = 4 then st.busyErr else decide (8 ≤ k) && st.errCode.getLsbD (k - 8) := by
  simp only [Status.toWord, BitVec.getLsbD_append, BitVec.getLsbD_ofBool, BitVec.getLsbD_zero]
  obtain hflag | hrest := Nat.lt_or_ge k 5
  · interval_cases k <;> simp
  · obtain ⟨m, rfl⟩ := Nat.exists_eq_add_of_le' hrest
    grind

/-- The bits of CTRL as the host reads it (10_state.md R28). -/
theorem ctrl_toWord_bit (c : Ctrl) (k : Nat) : c.toWord.getLsbD k = (decide (k = 0) && c.ie) := by
  simp only [Ctrl.toWord, BitVec.getLsbD_append, BitVec.getLsbD_ofBool, BitVec.getLsbD_zero]
  grind

/-- Settles O40: the registers stand in the first window, and their words have the bits of the two lemmas above. -/
theorem statusAndControlWords : Obligations.StatusAndControlWords := by
  refine ⟨fun s => ⟨busRead_of_regAt (regAt_status s.width), busRead_of_regAt (regAt_ctrl s.width)⟩,
    fun s => busRead_of_regAt (regAt_cmd s.width), fun _ => busRead_width,
    fun st => ⟨status_toWord_bit st 0, status_toWord_bit st 1, status_toWord_bit st 2, status_toWord_bit st 3,
      status_toWord_bit st 4, ?_, ?_, ?_⟩, fun c => ⟨ctrl_toWord_bit c 0, ?_⟩⟩
  all_goals
    refine BitVec.eq_of_getLsbD_eq fun j hj => ?_
    simp only [BitVec.getLsbD_extractLsb', status_toWord_bit, ctrl_toWord_bit]
    grind

theorem status_toWord_reset : Status.reset.toWord = 0 := by decide

theorem ctrl_toWord_reset : Ctrl.toWord { ie := false } = 0 := by decide

/-- Settles O4: the values are those `State.resetOf` writes out; only WIDTH is read through the width's legality. -/
theorem resetValues : Obligations.ResetValues := by
  refine ⟨fun w hw => ⟨rfl, rfl, rfl, rfl, rfl, status_toWord_reset,
    ctrl_toWord_reset, rfl, rfl, busRead_width hw, rfl, rfl⟩, rfl, ?_⟩
  decide

/-- Settles O50: an acceptance clears DONE and every completion sets it, so IE alone decides. -/
theorem interruptLevel : Obligations.InterruptLevel := by
  have hexec : ∀ s i, ∃ t, exec i s = .next t ∧ t.irq = s.ctrl.ie := fun s i =>
    ⟨_, exec_eq i s, by rw [completion_irq, takeDraws_ctrl]⟩
  refine ⟨fun s => by simp [State.irq], fun s v => by simp [State.irq, accepted_eq], fun s i hie => ?_,
    fun s i hie => ?_, fun s => ?_⟩
  · exact hie ▸ hexec s i
  · exact hie ▸ hexec s i
  · obtain ⟨k, out, hstep⟩ := engineStep_eq_completion s
    exact ⟨_, hstep, by rw [completion_irq, takeDraws_ctrl]⟩

end Sys2Proof.Machine
end

section
/-! PROOFS. The address map as one fact: every register has one byte offset, and an offset names a register exactly when
it is that register's own (20_memory.md R64, R67, R77). -/

namespace Sys2Proof.Machine

/-- The byte offset of a register (20_memory.md R64). -/
def Reg.address : Reg → Nat
  | .cmd => 0x0000
  | .status => 0x0004
  | .ctrl => 0x0008
  | .rounds => 0x000C
  | .width => 0x0010
  | .word q i => q.base + 4 * i

/-- The registers a block of width `w` has: of a wide register, `NW` words (20_memory.md R64). -/
def Reg.Mapped (w : Nat) : Reg → Prop
  | .word _ i => i < wordCount w
  | _ => True

theorem toNat_eq_address {w : Nat} {off : Offset} {g : Reg} (h : regAt w off = some g) : off.toNat = g.address := by
  simp only [regAt] at h
  repeat' split at h
  all_goals cases h
  all_goals
    simp only [Reg.address, Wide.base, Config.windowBytes] at *
    omega

theorem mapped_of_regAt {w : Nat} {off : Offset} {g : Reg} (h : regAt w off = some g) : g.Mapped w := by
  cases g with
  | word q i => exact regAt_word h
  | _ => exact trivial

/-- Two offsets that name the same register are the same, at every width. -/
theorem regAt_injective {w : Nat} {off other : Offset} {g : Reg} (h : regAt w off = some g)
    (hother : regAt w other = some g) : other = off :=
  BitVec.eq_of_toNat_eq ((toNat_eq_address hother).trans (toNat_eq_address h).symm)

theorem wordCount_le_of_legal {w : Nat} (h : Config.LegalWidth w) : wordCount w ≤ 1024 := by
  obtain ⟨-, -, hmax⟩ := h
  exact Nat.div_le_div_right (c := 32) hmax

/-- The words of a legal width stay inside their window, so the window and the index are read back from the offset. -/
theorem regAt_of_address_word {w : Nat} {off : Offset} {q : Wide} {i : Nat} (hw : Config.LegalWidth w)
    (hi : i < wordCount w) (hoff : off.toNat = q.base + 4 * i) : regAt w off = some (.word q i) := by
  have hwin := hi.trans_le (wordCount_le_of_legal hw)
  have hindex : off.toNat % Config.windowBytes / 4 = i := by
    cases q <;> simp only [hoff, Wide.base, Config.windowBytes] <;> omega
  have hwindow : off.toNat / Config.windowBytes = q.base / Config.windowBytes := by
    cases q <;> simp only [hoff, Wide.base, Config.windowBytes] <;> omega
  have haligned : off.toNat % 4 = 0 := by
    cases q <;> simp only [hoff, Wide.base] <;> omega
  simp only [regAt, hindex, hwindow, haligned, hi, if_true]
  cases q <;> rfl

theorem regAt_eq_some_iff {w : Nat} {off : Offset} {g : Reg} (hw : Config.LegalWidth w) :
    regAt w off = some g ↔ off.toNat = g.address ∧ g.Mapped w := by
  refine ⟨fun h => ⟨toNat_eq_address h, mapped_of_regAt h⟩, fun ⟨hoff, hmapped⟩ => ?_⟩
  cases g with
  | cmd => rw [show off = 0x0000 from BitVec.eq_of_toNat_eq hoff, regAt_cmd]
  | status => rw [show off = 0x0004 from BitVec.eq_of_toNat_eq hoff, regAt_status]
  | ctrl => rw [show off = 0x0008 from BitVec.eq_of_toNat_eq hoff, regAt_ctrl]
  | rounds => rw [show off = 0x000C from BitVec.eq_of_toNat_eq hoff, regAt_rounds]
  | width => rw [show off = 0x0010 from BitVec.eq_of_toNat_eq hoff, regAt_width]
  | word q i => exact regAt_of_address_word hw hmapped hoff

/-- Word `i` of a wide register stands where a script writes it (20_memory.md R64, 30_encoding.md R109). -/
theorem regAt_wordOffset {w i : Nat} (hw : Config.LegalWidth w) (hi : i < wordCount w) (q : Wide) :
    regAt w (wordOffset q i) = some (.word q i) := by
  refine regAt_of_address_word hw hi ?_
  have hwin := hi.trans_le (wordCount_le_of_legal hw)
  rw [wordOffset, BitVec.toNat_ofNat]
  cases q <;> simp only [Wide.base] <;> omega

/-- Settles O38: each register has its one offset, and the words of a wide register those below `NW`. -/
theorem addressMap : Obligations.AddressMap := by
  intro w off g hw
  rw [regAt_eq_some_iff hw]
  cases g with
  | word q i => cases q <;> simp [Reg.address, Reg.Mapped, Wide.base, wordCount, and_comm]
  | _ => simp [Reg.address, Reg.Mapped]

/-- An offset that is no multiple of 4, in a gap of the map, or at or above `4 * NW` in a window names no register. -/
theorem regAt_eq_none {w : Nat} {off : Offset} (hw : Config.LegalWidth w)
    (h : off.toNat % 4 ≠ 0 ∨ (0x0014 ≤ off.toNat ∧ off.toNat < 0x1000) ∨ 0x5000 ≤ off.toNat ∨
      (0x1000 ≤ off.toNat ∧ 4 * wordCount w ≤ off.toNat % 0x1000)) : regAt w off = none := by
  refine Option.eq_none_iff_forall_ne_some.mpr fun g hg => ?_
  have hle := wordCount_le_of_legal hw
  obtain ⟨hoff, hmapped⟩ := (regAt_eq_some_iff hw).mp hg
  cases g with
  | word q i => cases q <;> simp only [Reg.address, Reg.Mapped, Wide.base] at hoff hmapped <;> omega
  | _ => simp only [Reg.address] at hoff; omega

/-- Settles O39: such an offset names no register, and an access to none does nothing. -/
theorem unmappedAccessesDoNothing : Obligations.UnmappedAccessesDoNothing := by
  intro s off v hw hoff
  have hnone := regAt_eq_none hw hoff
  simp only [State.busRead, State.busWrite, hnone, and_self]

end Sys2Proof.Machine
end

section
/-! PROOFS. The words of a wide value, bit by bit and as a sum (20_memory.md R65, R74). -/

namespace Sys2Proof.Machine

theorem getLsbD_wordGet (q i j : Nat) : (wordGet q i).getLsbD j = (decide (j < 32) && q.testBit (32 * i + j)) := by
  rw [wordGet, BitVec.getLsbD_ofNat, Nat.testBit_div_two_pow, Nat.add_comm]

/-- The three parts of a written value: the bits below word `i`, the word, and the bits above it. -/
theorem testBit_wordSet (q i : Nat) (v : Word) (j : Nat) : (wordSet q i v).testBit j =
    if 32 * i ≤ j ∧ j < 32 * i + 32 then v.getLsbD (j - 32 * i) else q.testBit j := by
  have hlow : q % 2 ^ (32 * i) < 2 ^ (32 * i) := Nat.mod_lt _ (Nat.two_pow_pos _)
  have hshape : wordSet q i v =
      2 ^ (32 * i) * (2 ^ 32 * (q / 2 ^ (32 * (i + 1))) + v.toNat) + q % 2 ^ (32 * i) := by
    rw [wordSet, Nat.mul_succ 32 i, Nat.pow_add]
    ring
  rw [hshape, Nat.testBit_two_pow_mul_add _ hlow, Nat.testBit_two_pow_mul_add _ v.isLt]
  by_cases hbelow : j < 32 * i
  · rw [if_pos hbelow, if_neg (by omega), Nat.testBit_mod_two_pow, decide_eq_true hbelow, Bool.true_and]
  · rw [if_neg hbelow]
    by_cases hin : j < 32 * i + 32
    · rw [if_pos (by omega), if_pos (by omega), BitVec.testBit_toNat]
    · rw [if_neg (by omega), if_neg (by omega), Nat.testBit_div_two_pow]
      congr 1
      omega

@[simp] theorem wordGet_wordSet_same (q i : Nat) (v : Word) : wordGet (wordSet q i v) i = v := by
  refine BitVec.eq_of_getLsbD_eq fun j hj => ?_
  rw [getLsbD_wordGet, testBit_wordSet, if_pos (by omega), decide_eq_true hj, Bool.true_and, Nat.add_sub_cancel_left]

theorem wordGet_wordSet_other {i j : Nat} (h : j ≠ i) (q : Nat) (v : Word) :
    wordGet (wordSet q i v) j = wordGet q j := by
  refine BitVec.eq_of_getLsbD_eq fun k hk => ?_
  rw [getLsbD_wordGet, getLsbD_wordGet, testBit_wordSet, if_neg (by omega)]

/-- The first `n` words of a value sum to its low `32 * n` bits. -/
theorem sum_wordGet_eq_mod (q n : Nat) :
    ((List.range n).map fun i => (wordGet q i).toNat * 2 ^ (32 * i)).sum = q % 2 ^ (32 * n) := by
  induction n with
  | zero => simp [Nat.mod_one]
  | succ n ih =>
    rw [List.range_succ, List.map_append, List.sum_append, ih, Nat.mul_succ, Nat.pow_add, Nat.mod_mul]
    simp [wordGet, Nat.mul_comm]

end Sys2Proof.Machine
end

section
/-! PROOFS. What a write does to the register that takes it, locked or not (20_memory.md R70 to R76), what a read gives
after it (R61, R80), and the host's transactions as steps (R60). -/

namespace Sys2Proof.Machine

/-! Which writes are taken (20_memory.md R76). -/

section
variable {s : State} {off : Offset} {g : Reg}

theorem busWrite_of_unlocked (h : regAt s.width off = some g) (hu : s.status.busy = false ∨ g.locked = false)
    (v : Word) : s.busWrite off v = (.ok, s.writeUnlocked v g) := by
  have hopen : (s.status.busy && g.locked) = false := (Bool.and_eq_false_iff ..).mpr hu
  simp only [State.busWrite, h, State.writeReg, hopen, Bool.false_eq_true, if_false]

theorem busWrite_of_locked (h : regAt s.width off = some g) (hbusy : s.status.busy = true) (hl : g.locked = true)
    (v : Word) : s.busWrite off v = (.ok, { s with status := s.status.discarded }) := by
  simp only [State.busWrite, h, State.writeReg, hbusy, hl, Bool.and_self, if_true]

end

theorem locked_word {q : Wide} (hq : q ≠ .R) (i : Nat) : (Reg.word q i).locked = true := by
  cases q with
  | R => exact absurd rfl hq
  | _ => rfl

theorem writeUnlocked_word (s : State) {q : Wide} (hq : q ≠ .R) (i : Nat) (v : Word) :
    s.writeUnlocked v (.word q i) = s.setWide q (wordSet (s.wide q) i v) := by
  cases q with
  | R => exact absurd rfl hq
  | _ => rfl

theorem busWrite_word {s : State} {off : Offset} {q : Wide} {i : Nat} (hidle : s.status.busy = false) (hq : q ≠ .R)
    (h : regAt s.width off = some (.word q i)) (v : Word) :
    s.busWrite off v = (.ok, s.setWide q (wordSet (s.wide q) i v)) := by
  rw [busWrite_of_unlocked h (.inl hidle), writeUnlocked_word s hq]

/-! What a read gives after a write (20_memory.md R80). -/

/-- Only STATUS shows its flags. -/
theorem readReg_with_status (s : State) (st : Status) {g : Reg} (hg : g ≠ .status) :
    { s with status := st }.readReg g = s.readReg g := by
  cases g with
  | status => exact absurd rfl hg
  | word q i => cases q <;> rfl
  | _ => rfl

theorem readReg_setWide_other (s : State) {q : Wide} {i : Nat} (v : Word) {g : Reg} (hg : g ≠ .word q i) :
    (s.setWide q (wordSet (s.wide q) i v)).readReg g = s.readReg g := by
  cases g with
  | word p j =>
    simp only [State.readReg]
    by_cases hp : p = q
    · subst hp
      rw [setWide_same, wordGet_wordSet_other fun hj => hg (congrArg (Reg.word p) hj)]
    · rw [setWide_other s q p _ hp]
  | _ => simp [State.readReg]

/-- Settles O45: the write is taken as `wordSet`, whose bits are known, or is discarded. -/
theorem wordWriteSetsItsBits : Obligations.WordWriteSetsItsBits :=
  ⟨fun s q i _ v hidle hq h => ⟨_, busWrite_word hidle hq h v, testBit_wordSet (s.wide q) i v⟩,
    fun _ _ i _ v hbusy hq h => busWrite_of_locked h hbusy (locked_word hq i) v⟩

/-- Settles O46: another offset names another register, and so another register's value or another word. -/
theorem wordWriteReadsBack : Obligations.WordWriteReadsBack := by
  intro s q i off v hidle hq h
  rw [busWrite_word hidle hq h]
  refine ⟨?_, fun other hne => ?_⟩
  · rw [busRead_of_regAt (g := .word q i) (by rwa [setWide_width]), State.readReg, setWide_same, wordGet_wordSet_same]
  · refine busRead_congr (setWide_width s q _) fun g hg => readReg_setWide_other s v ?_
    rintro rfl
    exact hne (regAt_injective h hg)

/-- Settles O47: the offset names word `i`, and the low `W` bits of a register are all of it. -/
theorem wideValueIsSumOfWords : Obligations.WideValueIsSumOfWords := by
  refine ⟨fun s q i hw hi => ⟨_, busRead_of_regAt (regAt_wordOffset hw hi q), fun j hj => ?_⟩, fun w q hw hq => ?_⟩
  · rw [State.readReg, getLsbD_wordGet, decide_eq_true hj, Bool.true_and]
  · obtain ⟨hmod, -, -⟩ := hw
    rw [sum_wordGet_eq_mod, Nat.mul_div_cancel' (Nat.dvd_of_mod_eq_zero hmod), Nat.mod_eq_of_lt hq]

/-- Settles O49: each of these registers is locked, and BUSYERR shows in STATUS alone. -/
theorem lockedWritesDiscarded : Obligations.LockedWritesDiscarded := by
  intro s off v hbusy hreg
  obtain ⟨g, hg, hlocked⟩ : ∃ g, regAt s.width off = some g ∧ g.locked = true := by
    obtain h | h | ⟨i, h | h | h⟩ := hreg <;> exact ⟨_, h, rfl⟩
  have hwrite := busWrite_of_locked hg hbusy hlocked v
  refine ⟨hwrite, fun other hother => ?_⟩
  rw [hwrite]
  refine busRead_congr rfl fun p hp => readReg_with_status s _ ?_
  rintro rfl
  exact hother hp

/-! The small registers (20_memory.md R70 to R73, R75). -/

/-- Settles O41: CMD is locked, and an idle block accepts. -/
theorem cmdWriteIsAccepted : Obligations.CmdWriteIsAccepted :=
  ⟨fun s v hidle => busWrite_of_unlocked (regAt_cmd s.width) (.inl hidle) v,
    fun s v hbusy => busWrite_of_locked (regAt_cmd s.width) hbusy rfl v⟩

/-- A flag that is cleared by a 1 is kept by a 0 (20_memory.md R71). -/
theorem cleared_eq (st : Status) (v : Word) : st.cleared v =
    { busy := st.busy, prime := st.prime,
      done := if v[1] then false else st.done,
      err := if v[2] then false else st.err,
      errCode := if v[2] then 0 else st.errCode,
      busyErr := if v[4] then false else st.busyErr } := by
  have hclear : ∀ flag one : Bool, (flag && !one) = if one then false else flag := by decide
  simp only [Status.cleared, hclear]

/-- Settles O42: STATUS is not locked, and a write to it is an acknowledgement. -/
theorem statusWriteClears : Obligations.StatusWriteClears := by
  have hwrite : ∀ (s : State) (v : Word), s.busWrite 0x0004 v = (.ok, s.acknowledge v) := fun s v =>
    busWrite_of_unlocked (regAt_status s.width) (.inr rfl) v
  refine ⟨fun s v => ?_, fun s v hv => ?_⟩
  · rw [hwrite, State.acknowledge, cleared_eq]
  · rw [hwrite, State.irq, acknowledge_status, cleared_eq, hv, if_pos rfl, Bool.and_false]

/-- Settles O43: CTRL is not locked, and bit 1 chooses between a soft reset and IE. -/
theorem ctrlWrite : Obligations.CtrlWrite := by
  have hwrite : ∀ (s : State) (v : Word), s.busWrite 0x0008 v = (.ok, s.writeCtrl v) := fun s v =>
    busWrite_of_unlocked (regAt_ctrl s.width) (.inr rfl) v
  refine ⟨fun s v hreset => ⟨?_, congrArg Ctrl.ie (resetBlock_ctrl s)⟩, fun s v hkeep => ?_⟩
  · rw [hwrite, State.writeCtrl, if_pos hreset]
  · rw [hwrite, State.writeCtrl, if_neg (by simp [hkeep])]

/-- Settles O44: ROUNDS is locked. -/
theorem roundsWrite : Obligations.RoundsWrite :=
  ⟨fun s v hidle => busWrite_of_unlocked (regAt_rounds s.width) (.inl hidle) v,
    fun s v hbusy => busWrite_of_locked (regAt_rounds s.width) hbusy rfl v,
    fun s => busRead_of_regAt (regAt_rounds s.width)⟩

/-- Settles O48: WIDTH and R are not locked, so BUSYERR stays, and a write to them stores nothing. -/
theorem readOnlyWritesIgnored : Obligations.ReadOnlyWritesIgnored :=
  ⟨fun s v => busWrite_of_unlocked (regAt_width s.width) (.inr rfl) v,
    fun _ _ _ v h => busWrite_of_unlocked h (.inr rfl) v⟩

/-! The host's transactions as steps (20_memory.md R60, 30_encoding.md R108). -/

/-- The host's turn comes whenever its next event is a transaction that it does not wait for. -/
theorem step_eq_hostTurn {s : State} {ev : Event} {rest : List Event} (h : s.env.schedule = ev :: rest)
    (hcomplete : ev ≠ .complete) (hwait : ev ≠ .wait) : step s = .next s.hostTurn := by
  obtain ⟨hengine, -⟩ | ⟨-, hstep⟩ := step_cases s
  · obtain ⟨-, hhead⟩ := (engineTurn_iff s).mp hengine
    simp [h, hcomplete, hwait] at hhead
  · exact hstep

theorem popEvent_of_schedule {s : State} {ev : Event} {rest : List Event} (h : s.env.schedule = ev :: rest) :
    s.popEvent = { s with env := { s.env with schedule := rest } } := by
  rw [State.popEvent, h, List.tail_cons]

section
variable (s : State) (events : List Event)

theorem busRead_with_schedule (off : Offset) :
    { s with env := { s.env with schedule := events } }.busRead off = s.busRead off := by
  refine busRead_congr rfl fun g _ => ?_
  cases g with
  | word q i => cases q <;> rfl
  | _ => rfl

theorem writeUnlocked_with_schedule (v : Word) (g : Reg) :
    { s with env := { s.env with schedule := events } }.writeUnlocked v g =
      { s.writeUnlocked v g with env := { (s.writeUnlocked v g).env with schedule := events } } := by
  cases g with
  | ctrl =>
    simp only [State.writeUnlocked, State.writeCtrl]
    split <;> rfl
  | word q i => cases q <;> rfl
  | _ => rfl

/-- A write keeps the schedule, whatever it is, and does not look at it. -/
theorem busWrite_with_schedule (off : Offset) (v : Word) :
    { s with env := { s.env with schedule := events } }.busWrite off v = ((s.busWrite off v).1,
      { (s.busWrite off v).2 with env := { (s.busWrite off v).2.env with schedule := events } }) := by
  simp only [State.busWrite]
  cases regAt s.width off with
  | none => rfl
  | some g =>
    simp only [State.writeReg, writeUnlocked_with_schedule]
    split <;> rfl

end

theorem hostRead_popEvent {s : State} {ev : Event} {rest : List Event} (h : s.env.schedule = ev :: rest)
    (off : Offset) : s.popEvent.hostRead off = { s with env := { s.env with
      schedule := rest, resp := (s.busRead off).1, last := (s.busRead off).2 } } := by
  simp only [popEvent_of_schedule h, State.hostRead, busRead_with_schedule]

/-- A write at the head of the schedule: the transaction, with its event used up and its response recorded. -/
theorem hostWrite_popEvent {s : State} {ev : Event} {rest : List Event} (h : s.env.schedule = ev :: rest)
    (off : Offset) (v : Word) : s.popEvent.hostWrite off v =
      { (s.busWrite off v).2 with env := { (s.busWrite off v).2.env with
        schedule := rest, resp := (s.busWrite off v).1 } } := by
  simp only [popEvent_of_schedule h, State.hostWrite, busWrite_with_schedule]

/-- Settles O12: the step is the host's turn, and its turn is the transaction of its first event. -/
theorem stepPerformsTransactions : Obligations.StepPerformsTransactions := by
  refine ⟨fun s off rest h => ?_, fun s off v rest h => ?_, fun s off rest h => ?_⟩
  · rw [step_eq_hostTurn h nofun nofun, State.hostTurn, h]
    exact congrArg Host.Outcome.next (hostRead_popEvent h off)
  · rw [step_eq_hostTurn h nofun nofun, State.hostTurn, h]
    exact congrArg Host.Outcome.next (hostWrite_popEvent h off v)
  · rw [step_eq_hostTurn h nofun nofun, State.hostTurn, h]
    exact congrArg Host.Outcome.next (hostWrite_popEvent h off s.env.last)

end Sys2Proof.Machine
end

section
/-! PROOFS. The opcode map row by row: its words are the encoder's, and the decoder reads them back (30_encoding.md R101
to R105). -/

namespace Sys2Proof

theorem decode_encode (i : Instr) : decode (encode i) = .ok i := by
  cases i <;> rfl

/-- The rows of the opcode map are the commands with their words, compared in all 32 bits. -/
theorem mem_opcodeMap_iff {row : OpcodeRow} :
    row ∈ opcodeMap ↔ ∃ i, row = ⟨i, encode i, BitVec.allOnes 32⟩ := by
  constructor
  · intro h
    simp only [opcodeMap, List.mem_cons, List.not_mem_nil, or_false] at h
    obtain rfl | rfl | rfl | rfl | rfl := h <;> exact ⟨_, rfl⟩
  · rintro ⟨i, rfl⟩
    cases i <;> decide

theorem isHit_allOnes (i : Instr) (p w : Word) : (⟨i, p, BitVec.allOnes 32⟩ : OpcodeRow).isHit w = true ↔ w = p := by
  rw [OpcodeRow.isHit, BitVec.and_allOnes, beq_iff_eq]

theorem legal_iff_exists_encode {w : Word} : legal w = true ↔ ∃ i, w = encode i := by
  simp only [legal, List.any_eq_true, mem_opcodeMap_iff]
  constructor
  · rintro ⟨_, ⟨i, rfl⟩, hhit⟩
    exact ⟨i, (isHit_allOnes i _ w).mp hhit⟩
  · rintro ⟨i, hw⟩
    exact ⟨_, ⟨i, rfl⟩, (isHit_allOnes i _ w).mpr hw⟩

theorem legal_iff_five_words {w : Word} : legal w = true ↔
    w = 0x00000001#32 ∨ w = 0x00000002#32 ∨ w = 0x00000012#32 ∨ w = 0x00000003#32 ∨ w = 0x00000004#32 := by
  rw [legal_iff_exists_encode]
  constructor
  · rintro ⟨i, rfl⟩
    cases i <;> decide
  · rintro (h | h | h | h | h)
    · exact ⟨.modmul, h⟩
    · exact ⟨.modexp, h⟩
    · exact ⟨.modexpC, h⟩
    · exact ⟨.mrtest, h⟩
    · exact ⟨.mrwit, h⟩

/-- Settles O1: the five words are the encoder's, which the decoder reads back. -/
theorem commandWordsDecode : Obligations.CommandWordsDecode :=
  ⟨decode_encode .modmul, decode_encode .modexp, decode_encode .modexpC, decode_encode .mrtest, decode_encode .mrwit,
    rfl, rfl, rfl, rfl, rfl⟩

/-- Settles O2: a word that decodes is its command's word, and the words of the commands are the legal ones. -/
theorem decodeExactlyLegalWords : Obligations.DecodeExactlyLegalWords := by
  have hdecode : ∀ (w : Word) (i : Instr), decode w = .ok i ↔ w = encode i := fun w i =>
    ⟨eq_encode_of_decode, fun hw => hw ▸ decode_encode i⟩
  refine ⟨hdecode, fun w => ?_⟩
  simp only [hdecode, legal_iff_exists_encode]

/-- Settles O3: the fields of a word are the digits of its number, so the field form is a fact about numbers below
`2^32`. -/
theorem legalWordsByFields : Obligations.LegalWordsByFields := by
  refine ⟨fun c => legal_iff_five_words, fun c => ?_, rfl, fun row hrow => ?_⟩
  · simp only [legal_iff_five_words, ← BitVec.toNat_inj, BitVec.toNat_ofNat]
    omega
  · obtain ⟨i, rfl⟩ := mem_opcodeMap_iff.mp hrow
    exact ⟨rfl, decode_encode i⟩

end Sys2Proof
end

section
/-! PROOFS. Runs of the machine, and the two statements of a host script that handle a wide register word by word: LDA,
LDB, LDN write all its words, EXPECTW compares them all (30_encoding.md R108, R109). -/

namespace Sys2Proof.Machine

/-! Runs. -/

theorem run_succ {s t : State} (h : step s = .next t) (k : Nat) :
    Host.Core.run core (k + 1) s = Host.Core.run core k t := by
  have hcore : core.step s = .next t := h
  simp only [Host.Core.run, hcore]

theorem run_add {j : Nat} {s t : State} (h : Host.Core.run core j s = .next t) (k : Nat) :
    Host.Core.run core (j + k) s = Host.Core.run core k t := by
  induction j generalizing s with
  | zero =>
    cases h
    rw [Nat.zero_add]
  | succ j ih =>
    obtain ⟨u, hstep⟩ := step_eq_next s
    rw [run_succ hstep] at h
    rw [Nat.succ_add, run_succ hstep]
    exact ih h

/-- A statement that expands to `k` events for each of `n` words runs word by word: `after i` is the state with the
first `i` words done, given the events that are still to come. -/
theorem run_words {k n : Nat} {events : Nat → List Event} {after : Nat → List Event → State}
    (hword : ∀ i < n, ∀ rest, Host.Core.run core k (after i (events i ++ rest)) = .next (after (i + 1) rest))
    (rest : List Event) :
    Host.Core.run core (k * n) (after 0 ((List.range n).flatMap events ++ rest)) = .next (after n rest) := by
  induction n generalizing rest with
  | zero => rfl
  | succ n ih =>
    have hbefore := ih (fun i hi => hword i (hi.trans n.lt_succ_self)) (events n ++ rest)
    rw [List.range_succ, List.flatMap_append, List.flatMap_singleton, List.append_assoc, Nat.mul_succ,
      run_add hbefore, hword n n.lt_succ_self]

theorem wordCount_ne_zero {w : Nat} (hw : Config.LegalWidth w) : wordCount w ≠ 0 := by
  unfold wordCount
  omega

/-! LDA, LDB, LDN (30_encoding.md R109). -/

/-- A register of value `x` after the writes of the first `i` words of `v`. -/
def loadedWords (x v : Nat) : Nat → Nat
  | 0 => x
  | i + 1 => wordSet (loadedWords x v i) i (wordGet v i)

theorem testBit_loadedWords (x v i j : Nat) :
    (loadedWords x v i).testBit j = if j < 32 * i then v.testBit j else x.testBit j := by
  induction i with
  | zero => rfl
  | succ i ih =>
    rw [loadedWords, testBit_wordSet]
    by_cases hword : 32 * i ≤ j ∧ j < 32 * i + 32
    · rw [if_pos hword, if_pos (by omega), getLsbD_wordGet, decide_eq_true (by omega), Bool.true_and,
        Nat.add_sub_cancel' hword.1]
    · rw [if_neg hword, ih]
      exact if_congr (by omega) rfl rfl

/-- All `NW` words of a value that fits replace the whole register. -/
theorem loadedWords_eq {w x v : Nat} (hw : Config.LegalWidth w) (hx : x < 2 ^ w) (hv : v < 2 ^ w) :
    loadedWords x v (wordCount w) = v := by
  have hcount : 32 * wordCount w = w := by unfold wordCount; omega
  refine Nat.eq_of_testBit_eq fun j => ?_
  rw [testBit_loadedWords, hcount]
  by_cases hj : j < w
  · rw [if_pos hj]
  · have hpow : 2 ^ w ≤ 2 ^ j := Nat.pow_le_pow_right (by decide) (Nat.le_of_not_lt hj)
    rw [if_neg hj, Nat.testBit_lt_two_pow (hx.trans_le hpow), Nat.testBit_lt_two_pow (hv.trans_le hpow)]

/-- A write of one word, as a step of an idle block. -/
theorem step_write_word {s : State} {q : Wide} {i : Nat} {v : Word} {rest : List Event}
    (hw : Config.LegalWidth s.width) (hi : i < wordCount s.width) (hidle : s.status.busy = false) (hq : q ≠ .R)
    (h : s.env.schedule = .write (wordOffset q i) v :: rest) :
    step s = .next { s.setWide q (wordSet (s.wide q) i v) with
      env := { s.env with schedule := rest, resp := .ok } } := by
  obtain ⟨-, hwrite, -⟩ := stepPerformsTransactions
  rw [hwrite s _ v rest h, busWrite_word hidle hq (regAt_wordOffset hw hi q), setWide_env]

/-- The block after the first `i` writes of a load, with these events still to come. -/
def State.afterLoad (s : State) (q : Wide) (v i : Nat) (events : List Event) : State :=
  { s.setWide q (loadedWords (s.wide q) v i) with
    env := { s.env with schedule := events, resp := if i = 0 then s.env.resp else .ok } }

theorem afterLoad_zero {s : State} {q : Wide} {events : List Event} (h : s.env.schedule = events) (v : Nat) :
    s.afterLoad q v 0 events = s := by
  subst h
  cases q <;> rfl

@[simp] theorem afterLoad_width (s : State) (q : Wide) (v i : Nat) (events : List Event) :
    (s.afterLoad q v i events).width = s.width := setWide_width s q _

@[simp] theorem afterLoad_status (s : State) (q : Wide) (v i : Nat) (events : List Event) :
    (s.afterLoad q v i events).status = s.status := setWide_status s q _

theorem step_afterLoad {s : State} {q : Wide} {i : Nat} (hw : Config.LegalWidth s.width) (hi : i < wordCount s.width)
    (hidle : s.status.busy = false) (hq : q ≠ .R) (v : Nat) (rest : List Event) :
    step (s.afterLoad q v i ([.write (wordOffset q i) (wordGet v i)] ++ rest)) =
      .next (s.afterLoad q v (i + 1) rest) := by
  rw [step_write_word (by rwa [afterLoad_width]) (by rwa [afterLoad_width]) (by rwa [afterLoad_status]) hq rfl]
  cases q <;> rfl

theorem loadWide_eq_flatMap (w : Nat) (q : Wide) (v : Nat) : loadWide w q v =
    (List.range (wordCount w)).flatMap fun i => [.write (wordOffset q i) (wordGet v i)] := by
  rw [loadWide, List.map_eq_flatMap]

/-- Settles O51: each write is a step of a block that is still idle, and after the last one the words are `v`. -/
theorem loadStatementSetsRegister : Obligations.LoadStatementSetsRegister := by
  intro s q v rest hw hfits hidle hq hv hschedule
  rw [loadWide_eq_flatMap] at hschedule
  have hrun := run_words (k := 1) (after := s.afterLoad q v)
    (fun i hi rest => run_succ (step_afterLoad hw hi hidle hq v rest) 0) rest
  have hnonempty := wordCount_ne_zero hw
  rw [afterLoad_zero hschedule, Nat.one_mul, State.afterLoad, loadedWords_eq hw hfits hv, if_neg hnonempty] at hrun
  exact hrun

/-! EXPECTW (30_encoding.md R108). -/

/-- A read of one word, as a step, whether the block is busy or not. -/
theorem step_read_word {s : State} {q : Wide} {i : Nat} {rest : List Event} (hw : Config.LegalWidth s.width)
    (hi : i < wordCount s.width) (h : s.env.schedule = .read (wordOffset q i) :: rest) :
    step s = .next { s with env := { s.env with schedule := rest, resp := .ok, last := wordGet (s.wide q) i } } := by
  obtain ⟨hread, -, -⟩ := stepPerformsTransactions
  rw [hread s _ rest h, busRead_of_regAt (regAt_wordOffset hw hi q), State.readReg]

theorem step_expect {s : State} {v : Nat} {rest : List Event} (h : s.env.schedule = .expect v :: rest) :
    step s = .next { s with env := { s.env with
      schedule := rest, failed := s.env.failed || s.env.last.toNat != v } } := by
  rw [step_eq_hostTurn h nofun nofun, State.hostTurn, h]
  simp only [popEvent_of_schedule h, State.hostExpect]

/-- Whether one of the first `i` words of a value `x` is not the word expected. -/
def someWordDiffers (w x v i : Nat) : Bool := (List.range i).any fun j => (wordGet x j).toNat != expectedWord w v j

theorem someWordDiffers_succ (w x v i : Nat) : someWordDiffers w x v (i + 1) =
    (someWordDiffers w x v i || (wordGet x i).toNat != expectedWord w v i) := by
  simp only [someWordDiffers, List.range_succ, List.any_append, List.any_cons, List.any_nil, Bool.or_false]

/-- One of all `NW` words differs exactly when the value does. -/
theorem someWordDiffers_eq {w x v : Nat} (hw : Config.LegalWidth w) (hx : x < 2 ^ w) :
    someWordDiffers w x v (wordCount w) = decide (x ≠ v) := by
  rw [Bool.eq_iff_iff, decide_eq_true_iff, Ne, ← expectedWord_iff hw hx]
  simp [someWordDiffers]

/-- The block after the first `i` words of an EXPECTW have been read and compared. -/
def State.afterExpect (s : State) (q : Wide) (v i : Nat) (events : List Event) : State :=
  { s with env := { s.env with
      schedule := events
      resp := if i = 0 then s.env.resp else .ok
      last := if i = 0 then s.env.last else wordGet (s.wide q) (i - 1)
      failed := s.env.failed || someWordDiffers s.width (s.wide q) v i } }

theorem afterExpect_zero {s : State} {events : List Event} (h : s.env.schedule = events) (q : Wide) (v : Nat) :
    s.afterExpect q v 0 events = s := by
  subst h
  rw [State.afterExpect, someWordDiffers, List.range_zero, List.any_nil, Bool.or_false]
  rfl

theorem run_afterExpect {s : State} {i : Nat} (hw : Config.LegalWidth s.width) (hi : i < wordCount s.width)
    (q : Wide) (v : Nat) (rest : List Event) :
    Host.Core.run core 2
        (s.afterExpect q v i ([.read (wordOffset q i), .expect (expectedWord s.width v i)] ++ rest)) =
      .next (s.afterExpect q v (i + 1) rest) := by
  refine (run_succ (step_read_word (s := s.afterExpect q v i _) hw hi rfl) 1).trans
    ((run_succ (step_expect rfl) 0).trans ?_)
  rw [State.afterExpect, State.afterExpect, someWordDiffers_succ, ← Bool.or_assoc]
  cases q <;> rfl

/-- Settles O58: each word is read and compared, and all of them agree exactly when the value does. -/
theorem expectStatementChecksRegister : Obligations.ExpectStatementChecksRegister := by
  intro s q v rest hw hfits hschedule
  have hrun := run_words (k := 2) (after := s.afterExpect q v) (fun i hi rest => run_afterExpect hw hi q v rest) rest
  have hnonempty := wordCount_ne_zero hw
  rw [expectWide] at hschedule
  rw [afterExpect_zero hschedule, State.afterExpect, someWordDiffers_eq hw hfits, if_neg hnonempty,
    if_neg hnonempty] at hrun
  exact hrun

end Sys2Proof.Machine
end

section
/-! PROOFS. The multiplier unit (40_modmul.md): the Montgomery constants, the two reductions, and what the command
MODMUL gives. -/

namespace Sys2Proof.Machine

/-! One corrective subtraction (R136, R137). -/

theorem subtractOnce_modEq (r n : Nat) : subtractOnce r n ≡ r [MOD n] := by
  unfold subtractOnce
  split
  next h => exact (Nat.mod_eq_sub_mod h).symm
  · rfl

theorem subtractOnce_lt {r m n : Nat} (hm : n ≤ m) (h : r < m + n) : subtractOnce r n < m := by
  unfold subtractOnce
  split <;> omega

/-! The Montgomery constants (R135). -/

theorem invPow2_lt (n k : Nat) : invPow2 n k < 2 ^ k := by
  induction k with
  | zero => exact Nat.one_pos
  | succ k ih =>
    simp only [invPow2]
    split <;> omega

/-- Doubling the modulus leaves the inverse as it is or adds the new top bit to it. -/
theorem mul_invPow2_modEq {n : Nat} (hn : n % 2 = 1) (k : Nat) : n * invPow2 n k ≡ 1 [MOD 2 ^ k] := by
  induction k with
  | zero => exact Nat.modEq_one
  | succ k ih =>
    have hone : 1 % 2 ^ (k + 1) = 1 := Nat.mod_eq_of_lt (Nat.one_lt_two_pow k.succ_ne_zero)
    simp only [invPow2]
    split
    next h => exact h.trans hone.symm
    next h =>
      obtain ⟨c, hc⟩ := Nat.modEq_iff_dvd.mp ih.symm
      have hodd : ¬ (2 : Int) ∣ c := by
        rintro ⟨e, rfl⟩
        have hbit : 1 ≡ n * invPow2 n k [MOD 2 ^ (k + 1)] :=
          Nat.modEq_iff_dvd.mpr ⟨e, by push_cast at hc ⊢; linear_combination hc⟩
        exact h (Eq.trans hbit.symm hone)
      obtain ⟨e, he⟩ : (2 : Int) ∣ c + n := by omega
      exact (Nat.modEq_iff_dvd.mpr ⟨e, by push_cast at hc ⊢; linear_combination hc + 2 ^ k * he⟩).symm

theorem montPrime_lt (w n : Nat) : montPrime w n < 2 ^ w := Nat.mod_lt _ (Nat.two_pow_pos w)

theorem two_pow_dvd_mul_montPrime_add_one {n : Nat} (hn : n % 2 = 1) (w : Nat) : 2 ^ w ∣ n * montPrime w n + 1 := by
  rw [← Nat.modEq_zero_iff_dvd]
  calc n * montPrime w n + 1
      ≡ n * (2 ^ w - invPow2 n w) + n * invPow2 n w [MOD 2 ^ w] :=
        ((Nat.mod_modEq _ _).mul_left n).add (mul_invPow2_modEq hn w).symm
    _ = n * 2 ^ w := by rw [← Nat.mul_add, Nat.sub_add_cancel (invPow2_lt n w).le]
    _ ≡ 0 [MOD 2 ^ w] := Nat.modEq_zero_iff_dvd.mpr (Nat.dvd_mul_left _ _)

theorem coprime_two_pow_of_odd {n : Nat} (hn : n % 2 = 1) (w : Nat) : n.Coprime (2 ^ w) :=
  (Nat.coprime_two_right.mpr (Nat.odd_iff.mpr hn)).pow_right w

theorem mul_montPrime_mod {n : Nat} (hn : n % 2 = 1) (w : Nat) : n * montPrime w n % 2 ^ w = 2 ^ w - 1 := by
  obtain ⟨c, hc⟩ := two_pow_dvd_mul_montPrime_add_one hn w
  rw [Nat.eq_sub_of_add_eq hc, Nat.mul_sub_mod (hc ▸ Nat.succ_pos _), Nat.zero_mod]

/-- Settles O14: `n` is a unit modulo the radix, so two values of `W` bits with the same product are equal. -/
theorem montgomeryConstants : Obligations.MontgomeryConstants := by
  intro w n _ hn _
  refine ⟨fun v => ?_, rfl⟩
  have hprime := mul_montPrime_mod hn w
  constructor
  · rintro ⟨hv, hmod⟩
    have hcongr : n * v ≡ n * montPrime w n [MOD 2 ^ w] := hmod.trans hprime.symm
    exact (hcongr.cancel_left_of_coprime (coprime_two_pow_of_odd hn w).symm).eq_of_lt_of_lt hv (montPrime_lt w n)
  · rintro rfl
    exact ⟨montPrime_lt w n, hprime⟩

/-! Montgomery reduction (R136). -/

theorem redc_eq (w n' n T : Nat) :
    redc w n' n T = subtractOnce ((T + T % 2 ^ w * n' % 2 ^ w * n) / 2 ^ w) n := rfl

theorem redc_lt {w n T : Nat} (n' : Nat) (hT : T < n * 2 ^ w) : redc w n' n T < n := by
  have hpow := Nat.two_pow_pos w
  rw [redc_eq]
  refine subtractOnce_lt le_rfl ((Nat.div_lt_iff_lt_mul hpow).mpr ?_)
  have hm := Nat.mul_le_mul_right n (Nat.mod_lt (T % 2 ^ w * n') hpow).le
  linarith

section
variable {w n n' : Nat} (hconst : 2 ^ w ∣ n * n' + 1)
include hconst

/-- The multiple of `n` that REDC adds clears the low `w` bits. -/
theorem redc_dividend_dvd (T : Nat) : 2 ^ w ∣ T + T % 2 ^ w * n' % 2 ^ w * n := by
  rw [← Nat.modEq_zero_iff_dvd]
  calc T + T % 2 ^ w * n' % 2 ^ w * n
      ≡ T + T * n' * n [MOD 2 ^ w] :=
        (((Nat.mod_modEq _ _).trans ((Nat.mod_modEq _ _).mul_right n')).mul_right n).add_left T
    _ = T * (n * n' + 1) := by ring
    _ ≡ 0 [MOD 2 ^ w] := Nat.modEq_zero_iff_dvd.mpr (hconst.mul_left T)

theorem redc_mul_two_pow_modEq (T : Nat) : redc w n' n T * 2 ^ w ≡ T [MOD n] := by
  rw [redc_eq]
  refine ((subtractOnce_modEq _ n).mul_right _).trans ?_
  rw [Nat.div_mul_cancel (redc_dividend_dvd hconst T)]
  exact Nat.add_mul_modulus_modEq_iff.mpr rfl

/-- The two reductions take away the two factors `2^w` of `RR`. -/
theorem montMulMod_eq {a b : Nat} (hodd : n % 2 = 1) (hn : n < 2 ^ w) (ha : a < n) (hb : b < n) :
    montMulMod w n' (montRR w n) a b n = a * b % n := by
  have hpos : 0 < n := ha.pos
  have hT : ∀ x y : Nat, x < n → y < n → x * y < n * 2 ^ w := fun x y hx hy => Nat.mul_lt_mul'' hx (hy.trans hn)
  have hbar := redc_lt n' (hT a (montRR w n) ha (Nat.mod_lt _ hpos))
  have hres : montMulMod w n' (montRR w n) a b n * 2 ^ (2 * w) ≡ a * b * 2 ^ (2 * w) [MOD n] := by
    calc montMulMod w n' (montRR w n) a b n * 2 ^ (2 * w)
        = montMulMod w n' (montRR w n) a b n * 2 ^ w * 2 ^ w := by ring
      _ ≡ redc w n' n (a * montRR w n) * b * 2 ^ w [MOD n] := (redc_mul_two_pow_modEq hconst _).mul_right _
      _ = redc w n' n (a * montRR w n) * 2 ^ w * b := by ring
      _ ≡ a * montRR w n * b [MOD n] := (redc_mul_two_pow_modEq hconst _).mul_right b
      _ ≡ a * 2 ^ (2 * w) * b [MOD n] := ((Nat.mod_modEq _ _).mul_left a).mul_right b
      _ = a * b * 2 ^ (2 * w) := by ring
  have hlt : montMulMod w n' (montRR w n) a b n < n := redc_lt n' (hT _ b hbar hb)
  exact (Nat.mod_eq_of_lt hlt).symm.trans (hres.cancel_right_of_coprime (coprime_two_pow_of_odd hodd _))

end

/-- Settles O15: the range and the class of one reduction, and the product made of two. -/
theorem montgomeryReduction : Obligations.MontgomeryReduction := by
  intro w n _ hodd hn
  have hconst := two_pow_dvd_mul_montPrime_add_one hodd w
  exact ⟨fun T hT => ⟨redc_lt _ hT, redc_mul_two_pow_modEq hconst T⟩, fun a b => montMulMod_eq hconst hodd hn⟩

/-! Barrett reduction (R137). -/

theorem two_pow_pred_bitlen_le {n : Nat} (hn : n ≠ 0) : 2 ^ (bitlen n - 1) ≤ n := by
  rw [bitlen, if_neg hn, Nat.add_sub_cancel]
  exact Nat.log2_self_le hn

theorem lt_two_pow_bitlen (n : Nat) : n < 2 ^ bitlen n := by
  unfold bitlen
  split
  next h => subst h; exact Nat.one_pos
  · exact Nat.lt_log2_self

theorem bitlen_pos {n : Nat} (hn : n ≠ 0) : 0 < bitlen n := by
  rw [bitlen, if_neg hn]
  exact Nat.succ_pos _

/-- A quotient estimated through a reciprocal `D * E / n` is never too large. -/
theorem reciprocal_estimate_mul_le (T n : Nat) {D E : Nat} (hD : 0 < D) (hE : 0 < E) :
    T / D * (D * E / n) / E * n ≤ T := by
  refine Nat.le_of_mul_le_mul_right ?_ (Nat.mul_pos hD hE)
  calc T / D * (D * E / n) / E * n * (D * E)
      = T / D * (D * E / n) / E * E * (D * n) := by ring
    _ ≤ T / D * (D * E / n) * (D * n) := Nat.mul_le_mul_right _ (Nat.div_mul_le_self _ _)
    _ = T / D * D * (D * E / n * n) := by ring
    _ ≤ T * (D * E) := Nat.mul_le_mul (Nat.div_mul_le_self _ _) (Nat.div_mul_le_self _ _)

/-- Rounding loses less than 3: one from the last division, two from the two truncated factors. -/
theorem lt_reciprocal_estimate_add_three_mul {T n D E : Nat} (hD : 0 < D) (hn : D ≤ n) (hT : T < D * E) :
    T < (T / D * (D * E / n) / E + 3) * n := by
  have hE : 0 < E := Nat.pos_of_mul_pos_left (hT.pos)
  have hfirst : T < (T / D + 1) * D := Nat.mul_comm D _ ▸ Nat.lt_mul_div_succ T hD
  have hsecond : D * E < (D * E / n + 1) * n := Nat.mul_comm n _ ▸ Nat.lt_mul_div_succ (D * E) (hD.trans_le hn)
  have hlast := Nat.lt_mul_div_succ (T / D * (D * E / n)) hE
  have hT' : T / D < E := Nat.div_lt_of_lt_mul hT
  have hmu : D * E / n ≤ E := Nat.div_le_of_le_mul (Nat.mul_le_mul_right E hn)
  have hfactors : (T / D + 1) * (D * E / n + 1) ≤ (T / D * (D * E / n) / E + 3) * E := by linarith
  refine Nat.lt_of_mul_lt_mul_right (a := D * E) ?_
  calc T * (D * E)
      < (T / D + 1) * D * ((D * E / n + 1) * n) := Nat.mul_lt_mul'' hfirst hsecond
    _ = (T / D + 1) * (D * E / n + 1) * (D * n) := by ring
    _ ≤ (T / D * (D * E / n) / E + 3) * E * (D * n) := Nat.mul_le_mul_right _ hfactors
    _ = (T / D * (D * E / n) / E + 3) * n * (D * E) := by ring

/-- The estimate `q3` of the quotient `T / n` (R137). -/
def barrettEstimate (n T : Nat) : Nat :=
  (T / 2 ^ (bitlen n - 1)) * (2 ^ (2 * bitlen n) / n) / 2 ^ (bitlen n + 1)

theorem barrettRed_eq (T n : Nat) :
    barrettRed T n = subtractOnce (subtractOnce (T - barrettEstimate n T * n) n) n := rfl

section
variable {n T : Nat} (hn : n ≠ 0)
include hn

theorem two_pow_pred_mul_two_pow_succ_bitlen : 2 ^ (bitlen n - 1) * 2 ^ (bitlen n + 1) = 2 ^ (2 * bitlen n) := by
  have := bitlen_pos hn
  rw [← pow_add]
  congr 1
  omega

theorem barrettEstimate_mul_le (T : Nat) : barrettEstimate n T * n ≤ T := by
  rw [barrettEstimate, ← two_pow_pred_mul_two_pow_succ_bitlen hn]
  exact reciprocal_estimate_mul_le T n (Nat.two_pow_pos _) (Nat.two_pow_pos _)

theorem lt_barrettEstimate_add_three_mul (hT : T < n ^ 2) : T < (barrettEstimate n T + 3) * n := by
  rw [barrettEstimate, ← two_pow_pred_mul_two_pow_succ_bitlen hn]
  refine lt_reciprocal_estimate_add_three_mul (Nat.two_pow_pos _) (two_pow_pred_bitlen_le hn) ?_
  rw [two_pow_pred_mul_two_pow_succ_bitlen hn, Nat.mul_comm, pow_mul]
  exact hT.trans (Nat.pow_lt_pow_left (lt_two_pow_bitlen n) two_ne_zero)

/-- Two corrective subtractions bring the remainder below `n`, and none of the changes leaves its class. -/
theorem barrettRed_eq_mod (hT : T < n ^ 2) : barrettRed T n = T % n := by
  have hle := barrettEstimate_mul_le hn T
  have hlt := lt_barrettEstimate_add_three_mul hn hT
  have hres : barrettRed T n < n := by
    rw [Nat.add_mul] at hlt
    rw [barrettRed_eq]
    exact subtractOnce_lt le_rfl (subtractOnce_lt (by omega) (by omega))
  calc barrettRed T n
      = barrettRed T n % n := (Nat.mod_eq_of_lt hres).symm
    _ = (T - barrettEstimate n T * n) % n := (subtractOnce_modEq _ n).trans (subtractOnce_modEq _ n)
    _ = T % n := by rw [Nat.mul_comm] at hle ⊢; exact Nat.sub_mul_mod hle

end

/-- Settles O16: the two bounds of the estimate are those of its quotient. -/
theorem barrettReducesExactly : Obligations.BarrettReducesExactly := by
  intro n T hpos hT
  have hn := Nat.ne_of_gt hpos
  refine ⟨barrettRed_eq_mod hn hT, (Nat.le_div_iff_mul_le hpos).mpr (barrettEstimate_mul_le hn T), ?_⟩
  exact Nat.le_of_lt_succ ((Nat.div_lt_iff_lt_mul hpos).mpr (lt_barrettEstimate_add_three_mul hn hT))

/-! The unit and the command (R131, R133, R134). -/

/-- Settles O17: the reduced operands meet the premises of both paths. -/
theorem unitComputesMulMod : Obligations.UnitComputesMulMod := by
  intro w n a b hpos hn
  have ha := Nat.mod_lt a hpos
  have hb := Nat.mod_lt b hpos
  rw [Nat.mul_mod a b, unitMulMod]
  split
  next hodd => exact montMulMod_eq (two_pow_dvd_mul_montPrime_add_one hodd w) hodd hn ha hb
  · exact barrettRed_eq_mod (Nat.ne_of_gt hpos) (Nat.pow_two n ▸ Nat.mul_lt_mul'' ha hb)

theorem exec_modmul_of_ne_zero {s : State} (hn : s.n ≠ 0) :
    exec .modmul s = .next (s.completeResult (s.a * s.b % s.n)) := by
  rw [exec_eq_completion (i := .modmul) s nofun, outcomeOf, modmulOut, if_neg hn, completion_result, mulMod]

theorem exec_modmul_of_eq_zero {s : State} (hn : s.n = 0) : exec .modmul s = .next (s.completeError .modulus) := by
  rw [exec_eq_completion (i := .modmul) s nofun, outcomeOf, modmulOut, if_pos hn, completion_err]

/-- Settles O13: the outcome in each case of N, and the range of a residue. -/
theorem modmulCommand : Obligations.ModmulCommand := by
  refine ⟨fun s => exec_modmul_of_ne_zero, fun s => exec_modmul_of_eq_zero, fun s t hn hfits hexec => ?_,
    decode_encode .modmul, by decide⟩
  rw [exec_modmul_of_ne_zero hn] at hexec
  cases hexec
  have hlt : s.a * s.b % s.n < s.n := Nat.mod_lt _ (Nat.pos_of_ne_zero hn)
  exact ⟨hlt, hlt.trans hfits⟩

end Sys2Proof.Machine
end

section
/-! PROOFS. The exponentiation engine (41_modexp.md): square-and-multiply and its Montgomery form are the power, and
what the commands MODEXP and MODEXP.C give. -/

namespace Sys2Proof.Machine

/-! Square-and-multiply (R151). -/

/-- One more bit of the exponent doubles it and adds the bit. -/
theorem pow_div_two_pow (a b i : Nat) :
    a ^ (b / 2 ^ i) = a ^ (b / 2 ^ (i + 1)) * a ^ (b / 2 ^ (i + 1)) * if b.testBit i then a else 1 := by
  have hdouble : b / 2 ^ (i + 1) = b / 2 ^ i / 2 := by rw [pow_succ, Nat.div_div_eq_div_mul]
  have hbit : b.testBit i = decide (b / 2 ^ i % 2 = 1) := Nat.testBit_eq_decide_div_mod_eq
  rw [hdouble, hbit, ← pow_add]
  by_cases h : b / 2 ^ i % 2 = 1
  · rw [if_pos (decide_eq_true h), ← pow_succ]
    congr 1
    omega
  · rw [if_neg (by simpa using h), mul_one]
    congr 1
    omega

theorem sqMulBit_modEq (a n : Nat) (bit : Bool) {x v : Nat} (hx : x ≡ v [MOD n]) :
    sqMulBit a n bit x ≡ v * v * if bit then a else 1 [MOD n] := by
  have hsq : mulMod x x n ≡ v * v [MOD n] := (Nat.mod_modEq _ _).trans (hx.mul hx)
  cases bit
  · simpa [sqMulBit] using hsq
  · exact (Nat.mod_modEq _ _).trans (hsq.mul_right a)

/-- R151, the invariant: `x` is the power by the bits of the exponent from `i` up. -/
theorem sqMulLoop_modEq (a b n : Nat) : ∀ (i : Nat) {x : Nat}, x ≡ a ^ (b / 2 ^ i) [MOD n] →
    sqMulLoop a b n i x ≡ a ^ b [MOD n]
  | 0, _, hx => by simpa [sqMulLoop] using hx
  | i + 1, _, hx => sqMulLoop_modEq a b n i (pow_div_two_pow a b i ▸ sqMulBit_modEq a n (b.testBit i) hx)

theorem sqMulLoop_eq {n : Nat} (hn : 0 < n) {a b i x : Nat} (hlt : x < n) (hx : x ≡ a ^ (b / 2 ^ i) [MOD n]) :
    sqMulLoop a b n i x = a ^ b % n :=
  (Nat.mod_eq_of_lt (sqMulLoop_lt hn a b i x hlt)).symm.trans (sqMulLoop_modEq a b n i hx)

theorem pow_div_two_pow_bitlen (a b : Nat) : a ^ (b / 2 ^ bitlen b) = 1 := by
  rw [Nat.div_eq_of_lt (lt_two_pow_bitlen b), pow_zero]

theorem sqMul_eq {n : Nat} (hn : 0 < n) (a b : Nat) : sqMul a b n = a ^ b % n := by
  refine sqMulLoop_eq hn (Nat.mod_lt 1 hn) ?_
  rw [pow_div_two_pow_bitlen]
  exact Nat.mod_modEq 1 n

/-- Settles O18: no bit of the exponent is at or above its length, and the invariant does the rest. -/
theorem squareAndMultiplyIsPower : Obligations.SquareAndMultiplyIsPower := by
  intro a b n hn
  exact ⟨sqMul_eq hn a b, fun i => sqMulLoop_eq hn (Nat.mod_lt _ hn) (Nat.mod_modEq _ _)⟩

/-! The power in Montgomery form (R156). -/

/-- `x` is the Montgomery form of `v`: the residue of `v * 2^w`. -/
def IsMontForm (w n x v : Nat) : Prop := x < n ∧ x ≡ v * 2 ^ w [MOD n]

section
variable {w n : Nat} (hodd : n % 2 = 1)
include hodd

/-- One reduction takes away one factor `2^w`. -/
theorem redc_modEq {T v : Nat} (h : T ≡ v * 2 ^ w [MOD n]) : redc w (montPrime w n) n T ≡ v [MOD n] :=
  ((redc_mul_two_pow_modEq (two_pow_dvd_mul_montPrime_add_one hodd w) T).trans h).cancel_right_of_coprime
    (coprime_two_pow_of_odd hodd w)

section
variable (hn : n < 2 ^ w)
include hn

theorem isMontForm_redc {T v : Nat} (hT : T < n * n) (h : T ≡ v * 2 ^ w * 2 ^ w [MOD n]) :
    IsMontForm w n (redc w (montPrime w n) n T) v :=
  ⟨redc_lt _ (hT.trans_le (Nat.mul_le_mul_left n hn.le)), redc_modEq hodd h⟩

theorem isMontForm_redc_mul {x y u v : Nat} (hx : IsMontForm w n x u) (hy : IsMontForm w n y v) :
    IsMontForm w n (redc w (montPrime w n) n (x * y)) (u * v) := by
  obtain ⟨hxlt, hxform⟩ := hx
  obtain ⟨hylt, hyform⟩ := hy
  refine isMontForm_redc hodd hn (Nat.mul_lt_mul'' hxlt hylt) ?_
  calc x * y
      ≡ u * 2 ^ w * (v * 2 ^ w) [MOD n] := hxform.mul hyform
    _ = u * v * 2 ^ w * 2 ^ w := by ring

/-- `RR` is the Montgomery form of the radix, so a reduction by `RR` brings a residue into the form. -/
theorem isMontForm_redc_mul_montRR {x a : Nat} (hx : x < n) (ha : x ≡ a [MOD n]) :
    IsMontForm w n (redc w (montPrime w n) n (x * montRR w n)) a := by
  refine isMontForm_redc hodd hn (Nat.mul_lt_mul'' hx (Nat.mod_lt _ hx.pos)) ?_
  calc x * montRR w n
      ≡ a * 2 ^ (2 * w) [MOD n] := ha.mul (Nat.mod_modEq _ _)
    _ = a * 2 ^ w * 2 ^ w := by ring

/-- The invariant of R151, with `x` and the base in Montgomery form. -/
theorem isMontForm_sqMulMontLoop {a abar : Nat} (habar : IsMontForm w n abar a) (b : Nat) :
    ∀ (i : Nat) {x : Nat}, IsMontForm w n x (a ^ (b / 2 ^ i)) →
      IsMontForm w n (sqMulMontLoop w (montPrime w n) abar b n i x) (a ^ b)
  | 0, _, hx => by simpa [sqMulMontLoop] using hx
  | i + 1, x, hx => by
    have hsq := isMontForm_redc_mul hodd hn hx hx
    refine isMontForm_sqMulMontLoop habar b i ?_
    rw [pow_div_two_pow]
    split
    · exact isMontForm_redc_mul hodd hn hsq habar
    · rwa [mul_one]

theorem sqMulMont_eq (a b : Nat) : sqMulMont w a b n = a ^ b % n := by
  have hpos : 0 < n := by omega
  have habar := isMontForm_redc_mul_montRR hodd hn (Nat.mod_lt a hpos) (Nat.mod_modEq a n)
  have hone : IsMontForm w n (redc w (montPrime w n) n (montRR w n)) (a ^ (b / 2 ^ bitlen b)) := by
    rw [pow_div_two_pow_bitlen]
    refine isMontForm_redc hodd hn ((Nat.mod_lt _ hpos).trans_le (Nat.le_mul_self n)) ?_
    rw [one_mul, ← pow_add, ← two_mul]
    exact Nat.mod_modEq _ _
  obtain ⟨hlt, hform⟩ := isMontForm_sqMulMontLoop hodd hn habar b (bitlen b) hone
  have hres : sqMulMont w a b n < n := redc_lt _ (hlt.trans_le (Nat.le_mul_of_pos_right n (Nat.two_pow_pos w)))
  exact (Nat.mod_eq_of_lt hres).symm.trans (redc_modEq hodd hform)

end

end

/-- Settles O19: `n` is not 0, being odd, and the last reduction leaves the Montgomery form. -/
theorem montgomeryFormPowerIsModExp : Obligations.MontgomeryFormPowerIsModExp :=
  fun _ a b _ _ hodd hn => sqMulMont_eq hodd hn a b

/-! The commands (R152, R153). -/

theorem modexpOut_of_ne_zero (a b : Nat) {n : Nat} (hn : n ≠ 0) : modexpOut a b n = .result (a ^ b % n) := by
  rw [modexpOut, if_neg hn, sqMul_eq (Nat.pos_of_ne_zero hn)]

theorem modexpCOut_of_lt {a n : Nat} (b : Nat) (ha : a < n) : modexpCOut a b n = .result (a ^ b % n) := by
  rw [modexpCOut, if_neg ha.not_ge, sqMul_eq ha.pos]

theorem exec_modexp_of_ne_zero {s : State} (hn : s.n ≠ 0) :
    exec .modexp s = .next (s.completeResult (s.a ^ s.b % s.n)) := by
  rw [exec_eq_completion (i := .modexp) s nofun, outcomeOf, modexpOut_of_ne_zero _ _ hn, completion_result]

theorem exec_modexp_of_eq_zero {s : State} (hn : s.n = 0) : exec .modexp s = .next (s.completeError .modulus) := by
  rw [exec_eq_completion (i := .modexp) s nofun, outcomeOf, modexpOut, if_pos hn, completion_err]

theorem exec_modexpC_of_lt {s : State} (ha : s.a < s.n) :
    exec .modexpC s = .next (s.completeResult (s.a ^ s.b % s.n)) := by
  rw [exec_eq_completion (i := .modexpC) s nofun, outcomeOf, modexpCOut_of_lt _ ha, completion_result]

theorem exec_modexpC_of_le {s : State} (ha : s.n ≤ s.a) : exec .modexpC s = .next (s.completeError .range) := by
  rw [exec_eq_completion (i := .modexpC) s nofun, outcomeOf, modexpCOut, if_pos ha, completion_err]

/-- Settles O20: the outcome in each case of N, and the command's word. -/
theorem modexpCommand : Obligations.ModexpCommand :=
  ⟨fun _ => exec_modexp_of_ne_zero, fun _ => exec_modexp_of_eq_zero, decode_encode .modexp⟩

/-- Settles O21: the outcome on each side of the range check, and the command's word. -/
theorem modexpCheckedCommand : Obligations.ModexpCheckedCommand :=
  ⟨fun _ => exec_modexpC_of_lt, fun _ => exec_modexpC_of_le, decode_encode .modexpC⟩

end Sys2Proof.Machine
end

section
/-! PROOFS. The RSA round trip: the host's gcd and modular inverse (43_host_procedures.md R202, R205 to R207), the key
pair (R220), and what `decrypt` makes of what `encrypt` gives (R225, 41_modexp.md R155). -/

namespace Sys2Proof.Machine

/-! Euclid's algorithm (R202). -/

/-- The divisor falls at every division, so more fuel than its value is enough. -/
theorem gcdLoop_eq_gcd : ∀ {fuel : Nat} (a : Nat) {b : Nat}, b < fuel → gcdLoop fuel a b = Nat.gcd a b
  | 0, _, _, h => absurd h (Nat.not_lt_zero _)
  | fuel + 1, a, b, h => by
    rw [gcdLoop]
    split
    next hb => rw [hb, Nat.gcd_zero_right]
    next hb =>
      have hmod : a % b < b := Nat.mod_lt a (Nat.pos_of_ne_zero hb)
      rw [gcdLoop_eq_gcd b (hmod.trans_le (Nat.le_of_lt_succ h)), Nat.gcd_comm, ← Nat.gcd_rec, Nat.gcd_comm]

theorem hostGcd_eq_gcd (a b : Nat) : hostGcd a b = Nat.gcd a b := gcdLoop_eq_gcd a b.lt_succ_self

/-! The modular inverse (R205 to R207). -/

/-- What every division of the extended algorithm keeps: the two remainders are coprime and are the multiples
of `e₀` by the two coefficients, which stay small. -/
structure InverseState (e₀ phi₀ e phi : Nat) (x0 x1 : Int) : Prop where
  pos     : 0 < e
  coprime : Nat.gcd e phi = 1
  left    : x1 * e₀ ≡ e [ZMOD phi₀]
  right   : x0 * e₀ ≡ phi [ZMOD phi₀]
  size    : |x1| * phi + |x0| * e ≤ phi₀
  bound   : |x1| < phi₀

section
variable {e₀ phi₀ : Nat}

theorem inverseState_start (hphi : 2 ≤ phi₀) (hgcd : Nat.gcd e₀ phi₀ = 1) : InverseState e₀ phi₀ e₀ phi₀ 0 1 where
  pos := Nat.pos_of_ne_zero fun he => by rw [he, Nat.gcd_zero_left] at hgcd; omega
  coprime := hgcd
  left := by rw [one_mul]
  right := by rw [zero_mul]; exact (Int.modEq_zero_iff_dvd.mpr dvd_rfl).symm
  size := by simp
  bound := by rw [abs_one]; exact_mod_cast hphi

theorem inverseState_pos_right {e phi : Nat} {x0 x1 : Int} (h : InverseState e₀ phi₀ e phi x0 x1) (he : 1 < e) :
    0 < phi := by
  refine Nat.pos_of_ne_zero fun hphi => he.ne' ?_
  rw [← h.coprime, hphi, Nat.gcd_zero_right]

theorem inverseState_divide {e phi : Nat} {x0 x1 : Int} (h : InverseState e₀ phi₀ e phi x0 x1) (he : 1 < e) :
    InverseState e₀ phi₀ phi (e % phi) (x1 - ((e / phi : Nat) : Int) * x0) x0 := by
  have hpos := inverseState_pos_right h he
  obtain ⟨-, hcop, hleft, hright, hsize, hbound⟩ := h
  have hdiv : (e : Int) = (e % phi : Nat) + phi * (e / phi : Nat) := by exact_mod_cast (Nat.mod_add_div e phi).symm
  refine ⟨hpos, ?_, hright, ?_, ?_, ?_⟩
  · rw [Nat.gcd_comm, ← Nat.gcd_rec, Nat.gcd_comm, hcop]
  · calc (x1 - (e / phi : Nat) * x0) * e₀
        = x1 * e₀ - (e / phi : Nat) * (x0 * e₀) := by ring
      _ ≡ e - (e / phi : Nat) * phi [ZMOD phi₀] := hleft.sub (hright.mul_left _)
      _ = (e % phi : Nat) := by linear_combination hdiv
  · have hnew : |x1 - (e / phi : Nat) * x0| ≤ |x1| + (e / phi : Nat) * |x0| := by
      refine (abs_sub _ _).trans_eq ?_
      rw [abs_mul, Nat.abs_cast]
    calc |x0| * (e % phi : Nat) + |x1 - (e / phi : Nat) * x0| * phi
        ≤ |x0| * (e % phi : Nat) + (|x1| + (e / phi : Nat) * |x0|) * phi := by gcongr
      _ = |x1| * phi + |x0| * e := by linear_combination -|x0| * hdiv
      _ ≤ phi₀ := hsize
  · have hphi : 0 ≤ |x1| * (phi : Int) := by positivity
    have htwo : |x0| * 2 ≤ |x0| * e := by gcongr; exact_mod_cast he
    have habs := abs_nonneg x1
    have habs' := abs_nonneg x0
    omega

/-- The loop ends at the remainder 1, with a small coefficient that inverts `e₀`. -/
theorem inverseLoop_spec : ∀ {fuel e phi : Nat} {x0 x1 : Int}, phi < fuel → InverseState e₀ phi₀ e phi x0 x1 →
    inverseLoop fuel e phi x0 x1 * e₀ ≡ 1 [ZMOD phi₀] ∧ |inverseLoop fuel e phi x0 x1| < phi₀
  | 0, _, _, _, _, hfuel, _ => absurd hfuel (Nat.not_lt_zero _)
  | fuel + 1, e, phi, x0, x1, hfuel, h => by
    rw [inverseLoop]
    split
    next he =>
      have hmod := Nat.mod_lt e (inverseState_pos_right h he)
      exact inverseLoop_spec (hmod.trans_le (Nat.le_of_lt_succ hfuel)) (inverseState_divide h he)
    next he =>
      obtain rfl : e = 1 := Nat.le_antisymm (Nat.le_of_not_lt he) h.pos
      exact ⟨h.left, h.bound⟩

end

/-- The last step of R207: a coefficient of either sign is brought into the range without leaving its class. -/
theorem inverse_wrap {phi : Nat} {x : Int} (hx : |x| < phi) :
    (if x < 0 then x + phi else x).toNat < phi ∧ ((if x < 0 then x + phi else x).toNat : Int) ≡ x [ZMOD phi] := by
  rw [abs_lt] at hx
  split
  · rw [Int.toNat_of_nonneg (by omega)]
    exact ⟨by omega, Int.add_modEq_right⟩
  · rw [Int.toNat_of_nonneg (by omega)]
    exact ⟨by omega, rfl⟩

/-- R206: what the extended algorithm ends with is an inverse, and it is in the range. -/
theorem modularInverse_of_coprime {e phi : Nat} (hphi : 2 ≤ phi) (hgcd : Nat.gcd e phi = 1) :
    ∃ d, modularInverse e phi = .ok d ∧ d < phi ∧ d * e % phi = 1 := by
  obtain ⟨hinv, hbound⟩ := inverseLoop_spec phi.lt_succ_self (inverseState_start hphi hgcd)
  obtain ⟨hlt, hclass⟩ := inverse_wrap hbound
  rw [modularInverse, if_neg (by omega), if_neg (by rw [hostGcd_eq_gcd]; omega)]
  refine ⟨_, rfl, hlt, Nat.mod_eq_of_modEq ?_ hphi⟩
  exact_mod_cast (hclass.mul_right e).trans hinv

theorem modularInverse_ok {e phi d : Nat} (hphi : 2 ≤ phi) (h : modularInverse e phi = .ok d) :
    d < phi ∧ d * e % phi = 1 := by
  by_cases hgcd : Nat.gcd e phi = 1
  · obtain ⟨d', hd', hspec⟩ := modularInverse_of_coprime hphi hgcd
    cases hd'.symm.trans h
    exact hspec
  · rw [modularInverse, if_neg (by omega), if_pos (.inr (by rwa [hostGcd_eq_gcd]))] at h
    cases h

/-! The key pair and the round trip (R155, R220, R225). -/

theorem keypairOf_ok {p q : Nat} {pub : PublicKey} {priv : PrivateKey} (h : keypairOf p q = .ok (pub, priv)) :
    pub.n = p * q ∧ priv.n = p * q ∧ modularInverse pub.e ((p - 1) * (q - 1)) = .ok priv.d := by
  simp only [keypairOf] at h
  split at h
  · cases h
  next hinv => cases h; exact ⟨rfl, rfl, hinv⟩

theorem two_le_sub_one_mul_sub_one {p q : Nat} (hp : p.Prime) (hq : q.Prime) (hpq : p ≠ q) :
    2 ≤ (p - 1) * (q - 1) := by
  have hp2 := hp.two_le
  have hq2 := hq.two_le
  rcases Nat.lt_or_gt_of_ne hpq with hlt | hlt
  · exact Nat.mul_le_mul (by omega : 1 ≤ p - 1) (by omega : 2 ≤ q - 1)
  · exact Nat.mul_le_mul (by omega : 2 ≤ p - 1) (by omega : 1 ≤ q - 1)

/-- By Fermat's little theorem, an exponent that is 1 modulo `p - 1` changes no residue, a multiple of `p` included. -/
theorem pow_modEq_self_of_prime {p k : Nat} (hp : p.Prime) (hpos : 0 < k) (hk : p - 1 ∣ k - 1) (m : Nat) :
    m ^ k ≡ m [MOD p] := by
  have hpow : (m : Int) ^ k ≡ (m : Int) ^ 1 [ZMOD p] := Int.ModEq.pow_eq_pow hp hk hpos Nat.one_pos m
  rw [pow_one] at hpow
  exact_mod_cast hpow

/-- The two residues of `m` determine it modulo `p * q` (the Chinese remainder theorem). -/
theorem pow_modEq_self_of_primes {p q k : Nat} (hp : p.Prime) (hq : q.Prime) (hpq : p ≠ q) (hpos : 0 < k)
    (hk : (p - 1) * (q - 1) ∣ k - 1) (m : Nat) : m ^ k ≡ m [MOD p * q] :=
  (Nat.modEq_and_modEq_iff_modEq_mul ((Nat.coprime_primes hp hq).mpr hpq)).mp
    ⟨pow_modEq_self_of_prime hp hpos ((Nat.dvd_mul_right _ _).trans hk) m,
      pow_modEq_self_of_prime hq hpos ((Nat.dvd_mul_left _ _).trans hk) m⟩

/-- Decryption's power undoes encryption's, for exponents that are inverse to each other. -/
theorem pow_pow_mod_eq_self {p q e d m : Nat} (hp : p.Prime) (hq : q.Prime) (hpq : p ≠ q)
    (hinv : d * e % ((p - 1) * (q - 1)) = 1) (hm : m < p * q) : (m ^ e % (p * q)) ^ d % (p * q) = m := by
  have hpos : 0 < e * d := by
    rw [Nat.mul_comm]
    exact Nat.pos_of_ne_zero fun h => by rw [h, Nat.zero_mod] at hinv; cases hinv
  have hdvd : (p - 1) * (q - 1) ∣ e * d - 1 := by
    have h := Nat.dvd_sub_mod (n := (p - 1) * (q - 1)) (d * e)
    rwa [hinv, Nat.mul_comm d e] at h
  calc (m ^ e % (p * q)) ^ d % (p * q)
      = m ^ (e * d) % (p * q) := by rw [← Nat.pow_mod, pow_mul]
    _ = m % (p * q) := pow_modEq_self_of_primes hp hq hpq hpos hdvd m
    _ = m := Nat.mod_eq_of_lt hm

theorem hostEncrypt_of_lt {w m : Nat} {pub : PublicKey} (hm : m < pub.n) (hn : pub.n < 2 ^ w) (he : pub.e < 2 ^ w) :
    hostEncrypt w pub m = .ok (m ^ pub.e % pub.n) := by
  have hfits : (m : Int) < 2 ^ w := by exact_mod_cast hm.trans hn
  rw [hostEncrypt, if_neg (by omega), if_pos ⟨hfits, he, hn⟩, Int.toNat_natCast, modexpCOut_of_lt _ hm, fromOutcome]

theorem hostDecrypt_of_ne_zero {w c : Nat} {priv : PrivateKey} (hc : c < 2 ^ w) (hd : priv.d < 2 ^ w)
    (hn : priv.n < 2 ^ w) (hzero : priv.n ≠ 0) : hostDecrypt w priv c = .ok (c ^ priv.d % priv.n) := by
  rw [hostDecrypt, if_pos ⟨hc, hd, hn⟩, modexpOut_of_ne_zero _ _ hzero, fromOutcome]

/-- Settles O56: the software and the block compute the same two powers, and the second undoes the first. -/
theorem rsaRoundTrip : Obligations.RsaRoundTrip := by
  intro w p q m ⟨n, e⟩ ⟨n', d⟩ hp hq hpq hkey hn he hm
  obtain ⟨rfl, rfl, hmodinv⟩ := keypairOf_ok hkey
  obtain ⟨hd, hinv⟩ := modularInverse_ok (two_le_sub_one_mul_sub_one hp hq hpq) hmodinv
  have hback := pow_pow_mod_eq_self hp hq hpq hinv hm
  have hpos : 0 < p * q := hm.pos
  constructor
  · have hdn : d < p * q := hd.trans_le (Nat.mul_le_mul (Nat.sub_le p 1) (Nat.sub_le q 1))
    refine ⟨_, hostEncrypt_of_lt hm hn he, ?_⟩
    rw [hostDecrypt_of_ne_zero ((Nat.mod_lt _ hpos).trans hn) (hdn.trans hn) hn hpos.ne', hback]
  · rintro s hsn rfl rfl
    refine ⟨_, _, exec_modexpC_of_lt (hsn ▸ hm), exec_modexp_of_ne_zero ?_, ?_⟩
    · exact hsn ▸ hpos.ne'
    · simpa [hsn] using hback

end Sys2Proof.Machine
end

section
/-! PROOFS. The Miller-Rabin test as mathematics (42_millerrabin.md R171 to R177): the prefilter, the decomposition,
when a witness passes, how many draws the trials use, and why a prime is never rejected. -/

namespace Sys2Proof.Machine

/-! The prefilter (R172). -/

theorem prefilter_eq_some_iff {n : Nat} {p : Bool} : prefilter n = some p ↔
    (n < 2 ∧ p = false) ∨ ((n = 2 ∨ n = 3) ∧ p = true) ∨ (4 ≤ n ∧ n % 2 = 0 ∧ p = false) := by
  unfold prefilter
  split_ifs <;> simp only [Option.some.injEq, false_iff] <;> grind

theorem prefilter_eq_none_iff {n : Nat} : prefilter n = none ↔ 5 ≤ n ∧ n % 2 = 1 := by
  unfold prefilter
  split_ifs <;> simp only [false_iff, true_iff] <;> omega

/-- What the prefilter rejects is 0, 1 or an even number above 2, and none of them is prime. -/
theorem prefilter_true_of_prime {n : Nat} {p : Bool} (h : prefilter n = some p) (hn : n.Prime) : p = true := by
  obtain ⟨hsmall, -⟩ | ⟨-, hp⟩ | ⟨hfour, heven, -⟩ := prefilter_eq_some_iff.mp h
  · exact absurd hn.two_le hsmall.not_ge
  · exact hp
  · obtain htwo | hodd := hn.eq_two_or_odd <;> omega

/-! The decomposition (R173). -/

/-- The loop takes out every factor 2 that its fuel allows for, and stops at the odd part. -/
theorem decomposeLoop_two_pow_mul {d : Nat} (hd : d % 2 = 1) :
    ∀ {fuel k : Nat} (r : Nat), k ≤ fuel → decomposeLoop fuel r (2 ^ k * d) = (r + k, d)
  | 0, k, r, hk => by
    obtain rfl := Nat.le_zero.mp hk
    rw [decomposeLoop, pow_zero, one_mul, Nat.add_zero]
  | fuel + 1, 0, r, _ => by
    rw [decomposeLoop, pow_zero, one_mul, if_neg (by omega), Nat.add_zero]
  | fuel + 1, k + 1, r, hk => by
    have hdouble : 2 ^ (k + 1) * d = 2 * (2 ^ k * d) := by ring
    rw [decomposeLoop, hdouble, if_pos (Nat.mul_mod_right _ _), Nat.mul_div_cancel_left _ two_pos,
      decomposeLoop_two_pow_mul hd (r + 1) (Nat.le_of_succ_le_succ hk)]
    congr 1
    omega

/-- A power of 2 that divides `n - 1` is below `n`, and so below the next power of 2. -/
theorem lt_bitlen_of_split {n r d : Nat} (hn : 5 ≤ n) (h : n - 1 = 2 ^ r * d) : r < bitlen n := by
  have hdpos : 0 < d := Nat.pos_of_ne_zero fun hd => by rw [hd, Nat.mul_zero] at h; omega
  refine (Nat.pow_lt_pow_iff_right (a := 2) (by decide)).mp ?_
  calc 2 ^ r ≤ n - 1 := h ▸ Nat.le_mul_of_pos_right _ hdpos
    _ ≤ n := Nat.sub_le n 1
    _ < 2 ^ bitlen n := lt_two_pow_bitlen n

theorem decompose_eq {n r d : Nat} (hn : 5 ≤ n) (h : n - 1 = 2 ^ r * d) (hd : d % 2 = 1) : decompose n = (r, d) := by
  rw [decompose, h, decomposeLoop_two_pow_mul hd 0 (lt_bitlen_of_split hn h).le, Nat.zero_add]

/-- An odd `n` has an even `n - 1`. -/
theorem split_pos {n r d : Nat} (hodd : n % 2 = 1) (h : n - 1 = 2 ^ r * d) (hd : d % 2 = 1) : 1 ≤ r := by
  refine Nat.pos_of_ne_zero fun hr => ?_
  rw [hr, pow_zero, one_mul] at h
  omega

theorem exists_split {n : Nat} (hn : 5 ≤ n) : ∃ r d, n - 1 = 2 ^ r * d ∧ d % 2 = 1 := by
  obtain ⟨r, d, hd, h⟩ := Nat.exists_eq_two_pow_mul_odd (n := n - 1) (by omega)
  exact ⟨r, d, h, Nat.odd_iff.mp hd⟩

theorem bitlen_le_of_lt {n w : Nat} (hn : n ≠ 0) (h : n < 2 ^ w) : bitlen n ≤ w := by
  have hlt := (Nat.pow_lt_pow_iff_right (a := 2) (by decide)).mp ((two_pow_pred_bitlen_le hn).trans_lt h)
  omega

/-- Settles O22: the loop finds the exponent and the odd part of every split, so there is one split only. -/
theorem decomposeIsUniqueSplit : Obligations.DecomposeIsUniqueSplit := by
  intro n hodd hn
  obtain ⟨r, d, h, hd⟩ := exists_split hn
  have hdec := decompose_eq hn h hd
  have hlt := lt_bitlen_of_split hn h
  refine ⟨fun r' d' => ⟨fun ⟨h', hd'⟩ => (decompose_eq hn h' hd').symm, fun heq => ?_⟩, ?_⟩
  · cases heq.trans hdec
    exact ⟨h, hd⟩
  · rw [hdec]
    exact ⟨split_pos hodd h hd, by omega, by omega,
      fun w hw => Nat.sub_le_sub_right (bitlen_le_of_lt (by omega) hw) 1⟩

/-! One trial (R174, R175). -/

theorem trialSquarings_iff (n : Nat) : ∀ (m x : Nat),
    trialSquarings n m x = true ↔ ∃ j < m, x ^ 2 ^ (j + 1) % n = n - 1
  | 0, x => by simp [trialSquarings]
  | m + 1, x => by
    have hsquare : ∀ j, (x * x % n) ^ 2 ^ (j + 1) % n = x ^ 2 ^ (j + 1 + 1) % n := fun j => by
      rw [← Nat.pow_mod, ← pow_two, ← pow_mul, ← pow_succ']
    have hrest := trialSquarings_iff n m (x * x % n)
    simp only [hsquare] at hrest
    rw [Nat.exists_lt_succ_left, ← hrest, trialSquarings, mulMod, zero_add, pow_one, pow_two]
    split_ifs with h <;> simp [h]

/-- Settles O23: the first two comparisons are those of `a^d`, and the squarings run through the other powers. -/
theorem trialPassesExactlyWhen : Obligations.TrialPassesExactlyWhen := by
  intro n a r d hodd hn h hd
  have hpower : ∀ j, (a ^ d % n) ^ 2 ^ j % n = a ^ (2 ^ j * d) % n := fun j => by
    rw [← Nat.pow_mod, ← pow_mul, Nat.mul_comm]
  obtain ⟨m, rfl⟩ := Nat.exists_eq_add_of_le' (split_pos hodd h hd)
  have hsquarings := trialSquarings_iff n m (a ^ d % n)
  simp only [hpower] at hsquarings
  rw [Nat.exists_lt_succ_left, ← hsquarings, pow_zero, one_mul]
  simp only [trial, decompose_eq hn h hd, sqMul_eq (show 0 < n by omega), Nat.add_sub_cancel]
  split_ifs with hfirst <;> simp [← or_assoc, hfirst]

/-! A prime passes every trial (R171). -/

/-- Where only 1 and -1 square to 1, a number whose repeated squares reach 1 is 1 or has -1 among them. -/
theorem eq_one_or_exists_pow_eq_neg_one {R : Type*} [Ring R] [NoZeroDivisors R] {y : R} :
    ∀ {r : Nat}, y ^ 2 ^ r = 1 → y = 1 ∨ ∃ j < r, y ^ 2 ^ j = -1
  | 0, h => .inl (by rwa [pow_zero, pow_one] at h)
  | r + 1, h => by
    rw [pow_succ, pow_mul, pow_two, mul_self_eq_one_iff] at h
    obtain h | h := h
    · exact (eq_one_or_exists_pow_eq_neg_one h).imp_right fun ⟨j, hj, hneg⟩ => ⟨j, hj.trans r.lt_succ_self, hneg⟩
    · exact .inr ⟨r, r.lt_succ_self, h⟩

theorem mod_eq_one_of_cast {n x : Nat} (hn : 1 < n) (h : (x : ZMod n) = 1) : x % n = 1 := by
  refine Nat.mod_eq_of_modEq ((ZMod.natCast_eq_natCast_iff x 1 n).mp ?_) hn
  rwa [Nat.cast_one]

theorem mod_eq_sub_one_of_cast {n x : Nat} (hn : 0 < n) (h : (x : ZMod n) = -1) : x % n = n - 1 := by
  refine Nat.mod_eq_of_modEq ((ZMod.natCast_eq_natCast_iff x (n - 1) n).mp ?_) (by omega)
  rw [Nat.cast_pred hn, ZMod.natCast_self, zero_sub, h]

/-- By Fermat's little theorem `a^(n - 1)` is 1, and it is `a^d` squared `r` times. -/
theorem trial_of_prime {n a : Nat} (hprime : n.Prime) (hodd : n % 2 = 1) (hn : 5 ≤ n) (ha : 2 ≤ a ∧ a ≤ n - 2) :
    trial n a = true := by
  obtain ⟨r, d, h, hd⟩ := exists_split hn
  have := Fact.mk hprime
  have hne : (a : ZMod n) ≠ 0 := fun hzero => by
    have hle := Nat.le_of_dvd (by omega) ((ZMod.natCast_eq_zero_iff a n).mp hzero)
    omega
  have hfermat : ((a : ZMod n) ^ d) ^ 2 ^ r = 1 := by
    rw [← pow_mul, Nat.mul_comm, ← h, ZMod.pow_card_sub_one_eq_one hne]
  refine (trialPassesExactlyWhen n a r d hodd hn h hd).mpr ?_
  obtain hone | ⟨j, hj, hneg⟩ := eq_one_or_exists_pow_eq_neg_one hfermat
  · exact .inl (mod_eq_one_of_cast (by omega) (by exact_mod_cast hone))
  · refine .inr ⟨j, hj, mod_eq_sub_one_of_cast (by omega) ?_⟩
    rw [← pow_mul, Nat.mul_comm] at hneg
    exact_mod_cast hneg

/-! The trials in sequence (R177). -/

/-- Trials that pass are counted and left behind. -/
theorem trials_of_passed {n : Nat} {w : Nat → Nat} (m : Nat) :
    ∀ {i k : Nat}, (∀ j < i, trial n (w (k + j)) = true) → trials n w (i + m) k = trials n w m (k + i)
  | 0, k, _ => by rw [Nat.zero_add, Nat.add_zero]
  | i + 1, k, h => by
    have hrest : ∀ j < i, trial n (w (k + 1 + j)) = true := fun j hj => by
      rw [Nat.add_right_comm]
      exact h (j + 1) (Nat.succ_lt_succ hj)
    have hfirst : trial n (w k) = true := h 0 i.succ_pos
    rw [Nat.succ_add, trials, if_pos hfirst, trials_of_passed m hrest, Nat.add_right_comm, Nat.add_assoc]

theorem isPrime_of_prefilter_eq_some {n : Nat} {p : Bool} (h : prefilter n = some p) (rounds : Nat) (w : Nat → Nat) :
    isPrime n rounds w = (p, 0) := by
  rw [isPrime, h]

section
variable {n : Nat} (hn : 5 ≤ n) (hodd : n % 2 = 1)
include hn hodd

theorem isPrime_eq_trials (rounds : Nat) (w : Nat → Nat) : isPrime n rounds w = trials n w rounds 0 := by
  rw [isPrime, prefilter_eq_none_iff.mpr ⟨hn, hodd⟩]

theorem isPrime_of_all_pass {rounds : Nat} {w : Nat → Nat} (h : ∀ k < rounds, trial n (w k) = true) :
    isPrime n rounds w = (true, rounds) := by
  rw [isPrime_eq_trials hn hodd, ← Nat.add_zero rounds, trials_of_passed 0 (by simpa using h), trials, Nat.zero_add,
    Nat.add_zero]

theorem isPrime_of_first_failure {rounds k : Nat} {w : Nat → Nat} (hk : k < rounds)
    (hpass : ∀ j < k, trial n (w j) = true) (hfail : trial n (w k) = false) :
    isPrime n rounds w = (false, k + 1) := by
  obtain ⟨m, rfl⟩ := Nat.exists_eq_add_of_lt hk
  rw [isPrime_eq_trials hn hodd, Nat.add_assoc, trials_of_passed (m + 1) (by simpa using hpass), trials, Nat.zero_add,
    if_neg (by simp [hfail])]

end

theorem isPrime_of_prime {n rounds : Nat} {w : Nat → Nat} (hprime : n.Prime)
    (hw : 5 ≤ n → ∀ k < rounds, 2 ≤ w k ∧ w k ≤ n - 2) : (isPrime n rounds w).1 = true := by
  cases hpre : prefilter n with
  | some p =>
    rw [isPrime_of_prefilter_eq_some hpre]
    exact prefilter_true_of_prime hpre hprime
  | none =>
    obtain ⟨hn, hodd⟩ := prefilter_eq_none_iff.mp hpre
    rw [isPrime_of_all_pass hn hodd fun k hk => trial_of_prime hprime hodd hn (hw hn k hk)]

/-- Settles O24: a prime is accepted, so what is rejected is no prime; and 7 is a strong liar for 25, as `7^2` is `-1`
modulo 25. -/
theorem primeAlwaysAccepted : Obligations.PrimeAlwaysAccepted := by
  refine ⟨fun n rounds w hw => ?_, fun rounds => ?_, by norm_num⟩
  · have haccept := fun hprime : n.Prime => isPrime_of_prime hprime fun _ => hw
    exact ⟨fun hreject hprime => by simp [haccept hprime] at hreject, haccept⟩
  · have hliar : trial 25 7 = true := by decide
    rw [isPrime_of_all_pass (by decide) (by decide) fun _ _ => hliar]

end Sys2Proof.Machine
end

section
/-! PROOFS. The commands MRTEST and MRWIT (42_millerrabin.md R176 to R180): each outcome is that of the test, and its
completion writes PRIME or ERR and nothing else. -/

namespace Sys2Proof.Machine

/-! MRTEST (R178). -/

theorem exec_mrtest (s : State) : exec .mrtest s =
    .next ((s.takeDraws (isPrime s.n s.rounds.toNat s.draw).2).completeVerdict
      (isPrime s.n s.rounds.toNat s.draw).1) := exec_eq .mrtest s

theorem exec_mrtest_of_isPrime {s : State} {p : Bool} {used : Nat}
    (h : isPrime s.n s.rounds.toNat s.draw = (p, used)) :
    exec .mrtest s = .next ((s.takeDraws used).completeVerdict p) := by
  rw [exec_mrtest, h]

/-- Settles O26: the completion of a verdict, after the draws of the test. -/
theorem mrtestCommand : Obligations.MrtestCommand := ⟨exec_mrtest, decode_encode .mrtest⟩

/-- Settles O25: the port's answers are in range for every N that reaches a trial. -/
theorem mrtestNeverRejectsPrime : Obligations.MrtestNeverRejectsPrime := by
  intro s
  have haccept : s.n.Prime → (isPrime s.n s.rounds.toNat s.draw).1 = true := fun hprime =>
    isPrime_of_prime hprime fun hn k _ => draw_range s hn k
  exact ⟨_, exec_mrtest s, rfl, haccept, fun hreject hprime => Bool.false_ne_true (hreject.symm.trans (haccept hprime))⟩

/-- Settles O27: the prefilter's verdict, or that of no trial at all. -/
theorem mrtestDecidedWithoutDraw : Obligations.MrtestDecidedWithoutDraw := by
  intro s p h
  refine exec_mrtest_of_isPrime (used := 0) ?_
  obtain hdecided | ⟨hn, hodd, hrounds, rfl⟩ :
      prefilter s.n = some p ∨ (5 ≤ s.n ∧ s.n % 2 = 1 ∧ s.rounds = 0 ∧ p = true) := by
    simpa only [prefilter_eq_some_iff, or_assoc] using h
  · exact isPrime_of_prefilter_eq_some hdecided _ _
  · have hzero : s.rounds.toNat = 0 := by rw [hrounds]; rfl
    rw [hzero]
    exact isPrime_of_all_pass hn hodd nofun

/-- Settles O28: the verdict and the number of draws in both cases. -/
theorem mrtestRunsItsTrials : Obligations.MrtestRunsItsTrials := by
  intro s hn hodd
  exact ⟨fun hpass => exec_mrtest_of_isPrime (isPrime_of_all_pass hn hodd hpass),
    fun k hk hpass hfail => exec_mrtest_of_isPrime (isPrime_of_first_failure hn hodd hk hpass hfail)⟩

/-! MRWIT (R179). -/

theorem exec_mrwit (s : State) : exec .mrwit s = .next (s.completion (mrwitOut s.n s.a)) :=
  exec_eq_completion (i := .mrwit) s nofun

theorem mrwitOut_of_prefilter_eq_some {n : Nat} {p : Bool} (h : prefilter n = some p) (a : Nat) :
    mrwitOut n a = .verdict p := by
  rw [mrwitOut, h]

section
variable {n a : Nat} (hn : 5 ≤ n) (hodd : n % 2 = 1)
include hn hodd

theorem mrwitOut_of_range (ha : 2 ≤ a ∧ a ≤ n - 2) : mrwitOut n a = .verdict (trial n a) := by
  simp only [mrwitOut, prefilter_eq_none_iff.mpr ⟨hn, hodd⟩]
  exact if_neg (by omega)

theorem mrwitOut_of_not_range (ha : a < 2 ∨ n - 2 < a) : mrwitOut n a = .err .witness := by
  simp only [mrwitOut, prefilter_eq_none_iff.mpr ⟨hn, hodd⟩]
  exact if_pos ha

theorem isPrime_one_round (a : Nat) : (isPrime n 1 fun _ => a).1 = trial n a := by
  rw [isPrime_eq_trials hn hodd, trials, trials]
  split_ifs with h <;> simp [h]

end

/-- Where it does not raise, MRWIT is the test with the one witness. -/
theorem mrwitOut_eq_isPrime {n a : Nat} (h : mrwitOut n a ≠ .err .witness) :
    mrwitOut n a = .verdict (isPrime n 1 fun _ => a).1 := by
  cases hpre : prefilter n with
  | some p => rw [mrwitOut_of_prefilter_eq_some hpre, isPrime_of_prefilter_eq_some hpre]
  | none =>
    obtain ⟨hn, hodd⟩ := prefilter_eq_none_iff.mp hpre
    have ha : 2 ≤ a ∧ a ≤ n - 2 := by
      by_contra hout
      exact h (mrwitOut_of_not_range hn hodd (by omega))
    rw [mrwitOut_of_range hn hodd ha, isPrime_one_round hn hodd]

/-- Settles O29: the outcome in each case of N and A, and the command's word. -/
theorem mrwitCommand : Obligations.MrwitCommand := by
  refine ⟨fun s p h => ?_, fun s hn hodd ha => ?_, fun n a => mrwitOut_eq_isPrime, decode_encode .mrwit⟩
  · have hout : mrwitOut s.n s.a = .verdict p := by
      obtain hdecided | ⟨hn, hodd, hlow, hhigh, rfl⟩ : prefilter s.n = some p ∨
          (5 ≤ s.n ∧ s.n % 2 = 1 ∧ 2 ≤ s.a ∧ s.a ≤ s.n - 2 ∧ p = trial s.n s.a) := by
        simpa only [prefilter_eq_some_iff, or_assoc] using h
      · exact mrwitOut_of_prefilter_eq_some hdecided s.a
      · exact mrwitOut_of_range hn hodd ⟨hlow, hhigh⟩
    rw [exec_mrwit, hout]
    rfl
  · rw [exec_mrwit, mrwitOut_of_not_range hn hodd ha]
    rfl

end Sys2Proof.Machine
end

section
/-! PROOFS. The sequencer (42_millerrabin.md R182): from PRE its phases make the products, the power, the trials and the
draws of the one completion step, and end in the same state. -/

namespace Sys2Proof.Machine

/-! Running the sequencer. -/

/-- Some number of phases leads from the one state to the other. -/
def SeqReaches (s t : State) : Prop := ∃ k, seqRun k s = t

theorem seqReaches_refl (s : State) : SeqReaches s s := ⟨0, rfl⟩

theorem seqReaches_of_seqStep {s t u : State} (hstep : seqStep s = u) (h : SeqReaches u t) : SeqReaches s t := by
  obtain ⟨k, hk⟩ := h
  exact ⟨k + 1, by rw [seqRun, hstep, hk]⟩

theorem seqReaches_trans {s t u : State} (hst : SeqReaches s t) (htu : SeqReaches t u) : SeqReaches s u := by
  obtain ⟨k, hk⟩ := hst
  induction k generalizing s with
  | zero =>
    cases hk
    exact htu
  | succ k ih => exact seqReaches_of_seqStep rfl (ih hk)

theorem completion_with_scratch (s : State) (c : Scratch) (out : ExecOut) :
    { s with scratch := c }.completion out = s.completion out := by
  cases out <;> rfl

/-- FIN is the completion step, whatever the other scratch registers hold. -/
theorem seqReaches_completion (s : State) {c : Scratch} {out : ExecOut} (h : c.phase = .fin out) :
    SeqReaches { s with scratch := c } (s.completion out) := by
  refine seqReaches_of_seqStep ?_ (seqReaches_refl _)
  rw [← completion_with_scratch s c]
  simp only [seqStep, h]

theorem seqStep_of_pre {s : State} (h : s.scratch.phase = .pre) : seqStep s = s.seqPre := by
  simp only [seqStep, h]

/-! The unit (40_modmul.md R133, R135). -/

/-- The modulus is one the unit works for, and on the Montgomery path it has its constants. -/
def State.CanMultiply (s : State) : Prop :=
  0 < s.n ∧ s.n < 2 ^ s.width ∧
  (s.n % 2 = 1 → s.scratch.nPrime = montPrime s.width s.n ∧ s.scratch.rr = montRR s.width s.n)

theorem product_eq_mulMod {s : State} (h : s.CanMultiply) (x y : Nat) : s.product x y = mulMod x y s.n := by
  obtain ⟨hpos, hfits, hconstants⟩ := h
  rw [mulMod, ← unitComputesMulMod s.width s.n x y hpos hfits, State.product]
  by_cases hodd : s.n % 2 = 1
  · obtain ⟨hprime, hrr⟩ := hconstants hodd
    rw [hprime, hrr]
  · rw [unitMulMod, unitMulMod, if_neg hodd, if_neg hodd]

theorem loadConstants_canMultiply {s : State} (hpos : 0 < s.n) (hfits : s.n < 2 ^ s.width) :
    ∃ c, s.loadConstants = { s with scratch := c } ∧ ({ s with scratch := c } : State).CanMultiply := by
  unfold State.loadConstants
  split
  next => exact ⟨_, rfl, hpos, hfits, fun _ => ⟨rfl, rfl⟩⟩
  next heven => exact ⟨s.scratch, rfl, hpos, hfits, fun hodd => absurd hodd heven⟩

/-! EXP (41_modexp.md R151). -/

/-- In EXP with `x` so far and `i` bits of the exponent to come. -/
def State.atPower (s : State) (x i : Nat) : State :=
  { s with scratch := { s.scratch with x := x, i := i, phase := .exp } }

/-- The phases of an exponentiation are the iterations of R151; `finished` is what the last of them moves to. -/
theorem seqReaches_sqMulLoop {s : State} {base exponent : Nat} {finished : Nat → Nat → State} (hmul : s.CanMultiply)
    (hexp : ∀ x i, (s.atPower x i).seqExp = (s.atPower x i).expBit base exponent (finished x i)) :
    ∀ i x, SeqReaches (s.atPower x i) (finished (sqMulLoop base exponent s.n i x) 0)
  | 0, x => seqReaches_of_seqStep (hexp x 0) (seqReaches_refl _)
  | i + 1, x => by
    have hproduct : ∀ y z, (s.atPower x (i + 1)).product y z = mulMod y z s.n :=
      product_eq_mulMod (s := s.atPower x (i + 1)) hmul
    have hbit : seqStep (s.atPower x (i + 1)) = s.atPower (sqMulBit base s.n (exponent.testBit i) x) i := by
      refine (hexp x (i + 1)).trans ?_
      simp only [State.expBit, hproduct]
      rfl
    exact seqReaches_of_seqStep hbit (seqReaches_sqMulLoop hmul hexp i _)

theorem seqReaches_sqMul {s : State} {base exponent : Nat} {finished : Nat → Nat → State} (hmul : s.CanMultiply)
    (hexp : ∀ x i, (s.atPower x i).seqExp = (s.atPower x i).expBit base exponent (finished x i)) :
    SeqReaches (s.startPower exponent) (finished (sqMul base exponent s.n) 0) :=
  seqReaches_sqMulLoop hmul hexp (bitlen exponent) (1 % s.n)

/-- In FIN with the power `x`, which left the index at `i`. -/
def State.atResult (s : State) (x i : Nat) : State :=
  { s with scratch := { s.scratch with x := x, i := i, phase := .fin (.result x) } }

/-- MODEXP and MODEXP.C, once their checks are passed. -/
theorem seqReaches_power {s : State} (hcmd : decode s.cmd = .ok .modexp ∨ decode s.cmd = .ok .modexpC)
    (hpos : 0 < s.n) (hfits : s.n < 2 ^ s.width) :
    SeqReaches (s.loadConstants.startPower s.b) (s.completion (.result (sqMul s.a s.b s.n))) := by
  obtain ⟨c, hload, hmul⟩ := loadConstants_canMultiply hpos hfits
  rw [hload]
  refine seqReaches_trans (seqReaches_sqMul (finished := State.atResult { s with scratch := c }) hmul fun x i => ?_)
    (seqReaches_completion s rfl)
  have hcmd' : decode (({ s with scratch := c } : State).atPower x i).cmd = decode s.cmd := rfl
  obtain h | h := hcmd <;> rw [State.seqExp, hcmd', h] <;> rfl

/-! A trial: EXP, CMP and SQR (42_millerrabin.md R174, R175). -/

/-- A tester command is pending, and the scratch registers hold what its trials compute with. -/
def State.CanTry (s : State) : Prop :=
  s.CanMultiply ∧ decompose s.n = (s.scratch.s, s.scratch.d) ∧
  (decode s.cmd = .ok .mrtest ∨ decode s.cmd = .ok .mrwit)

/-- In CMP with the power `x`, which left the index at `i`. -/
def State.atCompare (s : State) (x i : Nat) : State :=
  { s with scratch := { s.scratch with x := x, i := i, j := 0, phase := .cmp } }

/-- In SQR with `x` after `j` squarings. -/
def State.atSquaring (s : State) (x j : Nat) : State :=
  { s with scratch := { s.scratch with x := x, i := 0, j := j, phase := .sqr } }

/-- The sequencer gets from `u` to the end of a trial of this verdict: to the next round, or to the completion. -/
def State.TrialEnds (s u : State) : Bool → Prop
  | true => ∃ x j, SeqReaches u (s.atSquaring x j).trialPassed
  | false => SeqReaches u (s.completion (.verdict false))

theorem trialEnds_of_seqReaches {s u v : State} {p : Bool} (hreach : SeqReaches u v) (h : s.TrialEnds v p) :
    s.TrialEnds u p := by
  cases p with
  | true =>
    obtain ⟨x, j, hend⟩ := h
    exact ⟨x, j, seqReaches_trans hreach hend⟩
  | false => exact seqReaches_trans hreach h

theorem trialEnds_of_seqStep {s u v : State} {p : Bool} (hstep : seqStep u = v) (h : s.TrialEnds v p) :
    s.TrialEnds u p :=
  trialEnds_of_seqReaches (seqReaches_of_seqStep hstep (seqReaches_refl v)) h

theorem seqStep_atSquaring_last {s : State} {x j : Nat} (hj : j = s.scratch.s - 1) :
    seqStep (s.atSquaring x j) = (s.atSquaring x j).goto (.fin (.verdict false)) := if_pos hj

theorem seqStep_atSquaring {s : State} (hmul : s.CanMultiply) {x j : Nat} (hj : j ≠ s.scratch.s - 1) :
    seqStep (s.atSquaring x j) =
      if mulMod x x s.n = s.n - 1 then (s.atSquaring (mulMod x x s.n) (j + 1)).trialPassed
      else s.atSquaring (mulMod x x s.n) (j + 1) := by
  have hproduct : (s.atSquaring x j).product x x = mulMod x x s.n := product_eq_mulMod (s := s.atSquaring x j) hmul x x
  rw [← hproduct]
  exact if_neg hj

theorem trialEnds_squarings {s : State} (hmul : s.CanMultiply) :
    ∀ {m x j : Nat}, j + m = s.scratch.s - 1 → s.TrialEnds (s.atSquaring x j) (trialSquarings s.n m x)
  | 0, x, j, hj => trialEnds_of_seqStep (seqStep_atSquaring_last hj) (seqReaches_completion s rfl)
  | m + 1, x, j, hj => by
    refine trialEnds_of_seqStep (seqStep_atSquaring hmul (by omega)) ?_
    rw [trialSquarings]
    split
    · exact ⟨_, _, seqReaches_refl _⟩
    · exact trialEnds_squarings hmul (by omega)

theorem seqStep_atCompare (s : State) (x : Nat) :
    seqStep (s.atCompare x 0) =
      if x = 1 ∨ x = s.n - 1 then (s.atSquaring x 0).trialPassed else s.atSquaring x 0 := rfl

/-- The trial of the witness held in scratch. -/
theorem trialEnds_startPower {s : State} (h : s.CanTry) :
    s.TrialEnds (s.startPower s.scratch.d) (trial s.n s.scratch.wit) := by
  obtain ⟨hmul, hdec, hcmd⟩ := h
  have hpower : SeqReaches (s.startPower s.scratch.d) (s.atCompare (sqMul s.scratch.wit s.scratch.d s.n) 0) := by
    refine seqReaches_sqMul (finished := s.atCompare) hmul fun x i => ?_
    have hcmd' : decode (s.atPower x i).cmd = decode s.cmd := rfl
    obtain h | h := hcmd <;> rw [State.seqExp, hcmd', h] <;> rfl
  refine trialEnds_of_seqReaches hpower (trialEnds_of_seqStep (seqStep_atCompare s _) ?_)
  simp only [trial, hdec]
  split
  · exact ⟨_, _, seqReaches_refl _⟩
  · exact trialEnds_squarings hmul (Nat.zero_add _)

/-! RND: the rounds of MRTEST, and the one of MRWIT (42_millerrabin.md R177, R179). -/

theorem takeDraws_takeDraws (s : State) (j k : Nat) : (s.takeDraws j).takeDraws k = s.takeDraws (j + k) := by
  simp [State.takeDraws, List.drop_drop, Nat.add_assoc]

theorem seqStep_of_mrtest {s : State} (hcmd : decode s.cmd = .ok .mrtest) (hphase : s.scratch.phase = .rnd) :
    seqStep s = if s.scratch.k = s.rounds.toNat then s.goto (.fin (.verdict true))
      else (s.takeDraws 1).startTrial (s.draw 0) := by
  simp only [seqStep, hphase, State.seqRnd, hcmd]

theorem seqStep_of_mrwit {s : State} (hcmd : decode s.cmd = .ok .mrwit) (hphase : s.scratch.phase = .rnd) :
    seqStep s = if s.scratch.k = 1 then s.goto (.fin (.verdict true)) else s.startTrial s.a := by
  simp only [seqStep, hphase, State.seqRnd, hcmd]

theorem seqReaches_after_all_rounds {s : State} (hcmd : decode s.cmd = .ok .mrtest) (hphase : s.scratch.phase = .rnd)
    (hk : s.scratch.k = s.rounds.toNat) : SeqReaches s (s.completion (.verdict true)) :=
  seqReaches_of_seqStep ((seqStep_of_mrtest hcmd hphase).trans (if_pos hk)) (seqReaches_completion s rfl)

theorem seqReaches_after_one_round {s : State} (hcmd : decode s.cmd = .ok .mrwit) (hphase : s.scratch.phase = .rnd)
    (hk : s.scratch.k = 1) : SeqReaches s (s.completion (.verdict true)) :=
  seqReaches_of_seqStep ((seqStep_of_mrwit hcmd hphase).trans (if_pos hk)) (seqReaches_completion s rfl)

/-- A round of MRTEST, `k` rounds after the state `s`: its witness is the draw `k` of `s`. -/
theorem seqStep_mrtest_round {s : State} {c : Scratch} (hcmd : decode s.cmd = .ok .mrtest) (hphase : c.phase = .rnd)
    (hk : c.k ≠ s.rounds.toNat) (k : Nat) :
    seqStep { s.takeDraws k with scratch := c } =
      ({ s.takeDraws (k + 1) with scratch := { c with wit := s.draw k } } : State).startPower c.d := by
  rw [← takeDraws_takeDraws, ← Nat.add_zero k, ← draw_takeDraws, Nat.add_zero]
  exact (seqStep_of_mrtest (s := { s.takeDraws k with scratch := c }) hcmd hphase).trans (if_neg hk)

theorem seqReaches_trials {s : State} (hcmd : decode s.cmd = .ok .mrtest) : ∀ {m k : Nat} {c : Scratch},
    k + m = s.rounds.toNat → c.phase = .rnd → c.k = k → ({ s with scratch := c } : State).CanTry →
    SeqReaches { s.takeDraws k with scratch := c }
      ((s.takeDraws (trials s.n s.draw m k).2).completion (.verdict (trials s.n s.draw m k).1))
  | 0, k, c, hrounds, hphase, hk, _ =>
    seqReaches_after_all_rounds (s := { s.takeDraws k with scratch := c }) hcmd hphase (hk.trans hrounds)
  | m + 1, k, c, hrounds, hphase, hk, htry => by
    have hround := seqStep_mrtest_round hcmd hphase (by omega : c.k ≠ s.rounds.toNat) k
    have hend := trialEnds_startPower
      (s := { s.takeDraws (k + 1) with scratch := { c with wit := s.draw k } }) htry
    refine seqReaches_of_seqStep hround ?_
    rw [trials]
    split
    next hpass =>
      obtain ⟨x, j, hend⟩ : State.TrialEnds _ _ true := hpass ▸ hend
      exact seqReaches_trans hend (seqReaches_trials hcmd (by omega) rfl (congrArg (· + 1) hk) htry)
    next hfail =>
      rw [Bool.not_eq_true] at hfail
      exact (hfail ▸ hend : State.TrialEnds _ _ false)

theorem seqReaches_one_round {s : State} (hcmd : decode s.cmd = .ok .mrwit) {c : Scratch} (hphase : c.phase = .rnd)
    (hk : c.k = 0) (htry : ({ s with scratch := c } : State).CanTry) :
    SeqReaches { s with scratch := c } (s.completion (.verdict (trial s.n s.a))) := by
  have hround : seqStep { s with scratch := c } =
      ({ s with scratch := { c with wit := s.a } } : State).startPower c.d :=
    (seqStep_of_mrwit (s := { s with scratch := c }) hcmd hphase).trans (if_neg (hk.trans_ne Nat.zero_ne_one))
  have hend := trialEnds_startPower (s := { s with scratch := { c with wit := s.a } }) htry
  refine seqReaches_of_seqStep hround ?_
  cases hverdict : trial s.n s.a with
  | true =>
    obtain ⟨x, j, hend⟩ : State.TrialEnds _ _ true := hverdict ▸ hend
    exact seqReaches_trans hend (seqReaches_after_one_round hcmd rfl (congrArg (· + 1) hk))
  | false => exact (hverdict ▸ hend : State.TrialEnds _ _ false)

/-! DEC and PRE (42_millerrabin.md R182). -/

/-- DEC sets up the trials: the constants are loaded, the counter is 0. -/
theorem seqReaches_dec {s t : State} (hcmd : decode s.cmd = .ok .mrtest ∨ decode s.cmd = .ok .mrwit)
    (hpos : 0 < s.n) (hfits : s.n < 2 ^ s.width)
    (h : ∀ c : Scratch, c.phase = .rnd → c.k = 0 → ({ s with scratch := c } : State).CanTry →
      SeqReaches { s with scratch := c } t) : SeqReaches (s.loadConstants.goto .dec) t := by
  obtain ⟨c, hload, hmul⟩ := loadConstants_canMultiply hpos hfits
  rw [hload]
  exact seqReaches_of_seqStep rfl (h _ rfl rfl ⟨hmul, rfl, hcmd⟩)

section
variable {s : State} (hfits : s.n < 2 ^ s.width)
include hfits

theorem seqReaches_modmul (hcmd : decode s.cmd = .ok .modmul) :
    SeqReaches s.seqPre (s.completion (modmulOut s.a s.b s.n)) := by
  simp only [State.seqPre, hcmd, modmulOut]
  split
  next => exact seqReaches_completion s rfl
  next hn =>
    obtain ⟨c, hload, hmul⟩ := loadConstants_canMultiply (Nat.pos_of_ne_zero hn) hfits
    rw [hload, product_eq_mulMod hmul]
    exact seqReaches_completion s rfl

theorem seqReaches_modexp (hcmd : decode s.cmd = .ok .modexp) :
    SeqReaches s.seqPre (s.completion (modexpOut s.a s.b s.n)) := by
  simp only [State.seqPre, hcmd, modexpOut]
  split
  next => exact seqReaches_completion s rfl
  next hn => exact seqReaches_power (.inl hcmd) (Nat.pos_of_ne_zero hn) hfits

theorem seqReaches_modexpC (hcmd : decode s.cmd = .ok .modexpC) :
    SeqReaches s.seqPre (s.completion (modexpCOut s.a s.b s.n)) := by
  simp only [State.seqPre, hcmd, modexpCOut]
  split
  next => exact seqReaches_completion s rfl
  next hn => exact seqReaches_power (.inr hcmd) (Nat.zero_lt_of_lt (Nat.lt_of_not_le hn)) hfits

theorem seqReaches_mrtest (hcmd : decode s.cmd = .ok .mrtest) :
    SeqReaches s.seqPre ((s.takeDraws (isPrime s.n s.rounds.toNat s.draw).2).completion
      (.verdict (isPrime s.n s.rounds.toNat s.draw).1)) := by
  simp only [State.seqPre, hcmd, isPrime]
  cases hpre : prefilter s.n with
  | some p => exact seqReaches_completion s rfl
  | none =>
    obtain ⟨hn, -⟩ := prefilter_eq_none_iff.mp hpre
    exact seqReaches_dec (.inl hcmd) (by omega) hfits fun c hphase hk htry =>
      seqReaches_trials hcmd (Nat.zero_add _) hphase hk htry

theorem seqReaches_mrwit (hcmd : decode s.cmd = .ok .mrwit) :
    SeqReaches s.seqPre (s.completion (mrwitOut s.n s.a)) := by
  cases hpre : prefilter s.n with
  | some p =>
    simp only [State.seqPre, hcmd, mrwitOut, hpre]
    exact seqReaches_completion s rfl
  | none =>
    obtain ⟨hn, -⟩ := prefilter_eq_none_iff.mp hpre
    simp only [State.seqPre, hcmd, mrwitOut, hpre]
    split
    next => exact seqReaches_completion s rfl
    next =>
      exact seqReaches_dec (.inr hcmd) (by omega) hfits fun c hphase hk htry =>
        seqReaches_one_round hcmd hphase hk htry

theorem seqReaches_outcome {i : Instr} (hcmd : decode s.cmd = .ok i) :
    SeqReaches s.seqPre ((s.takeDraws (outcomeOf i s).2).completion (outcomeOf i s).1) := by
  cases i with
  | modmul => exact seqReaches_modmul hfits hcmd
  | modexp => exact seqReaches_modexp hfits hcmd
  | modexpC => exact seqReaches_modexpC hfits hcmd
  | mrtest => exact seqReaches_mrtest hfits hcmd
  | mrwit => exact seqReaches_mrwit hfits hcmd

end

theorem seqReaches_illegal {s : State} (h : ∃ e, decode s.cmd = .error e) :
    SeqReaches s.seqPre (s.completion (.err .opcode)) := by
  obtain ⟨e, he⟩ := h
  simp only [State.seqPre, he]
  exact seqReaches_completion s rfl

/-- Settles O37: PRE of each word leads to that word's completion. -/
theorem sequencerReachesCompletion : Obligations.SequencerReachesCompletion := by
  intro s ⟨_, ⟨_, _, hfits, _⟩, _⟩ _ hpre
  have hreach : ∃ t, engineStep s = .next t ∧ SeqReaches s.seqPre t := by
    obtain ⟨i, hcmd, hstep⟩ | ⟨hillegal, hstep⟩ := engineStep_cases s
    · exact ⟨_, hstep, seqReaches_outcome hfits hcmd⟩
    · exact ⟨_, hstep, seqReaches_illegal hillegal⟩
  obtain ⟨t, hstep, hreach⟩ := hreach
  obtain ⟨k, hk⟩ := seqReaches_of_seqStep (seqStep_of_pre hpre) hreach
  exact ⟨k, t, hstep, hk⟩

end Sys2Proof.Machine
end

section
/-! PROOFS. The host's procedures (43_host_procedures.md): the contracts of gcd and the modular inverse (R202, R205,
R206), the candidates of `random_prime` (R211), the exponents of a key pair (R220), and how `encrypt` and `decrypt` end
(R225, R235). -/

namespace Sys2Proof.Machine

/-- Settles O52: the host's Euclid is the library's. -/
theorem hostGcdIsGcd : Obligations.HostGcdIsGcd := hostGcd_eq_gcd

/-! The modular inverse (R205, R206). -/

theorem modularInverse_eq_error {e phi : Nat} (hphi : phi ≠ 1) (h : phi = 0 ∨ Nat.gcd e phi ≠ 1) :
    modularInverse e phi = .error .arithmeticPrecondition := by
  rw [modularInverse, if_neg hphi, hostGcd_eq_gcd, if_pos h]

/-- An inverse is unique in its range: what `e` multiplies can be cancelled, `e` being a unit. -/
theorem inverse_unique {e phi d d' : Nat} (hgcd : Nat.gcd e phi = 1) (hd : d < phi) (hd' : d' < phi)
    (h : d * e % phi = d' * e % phi) : d = d' :=
  Nat.ModEq.eq_of_lt_of_lt (Nat.ModEq.cancel_right_of_coprime ((Nat.gcd_comm phi e).trans hgcd) h) hd hd'

theorem modularInverse_eq_ok_iff {e phi : Nat} (hphi : 2 ≤ phi) (hgcd : Nat.gcd e phi = 1) (d : Nat) :
    modularInverse e phi = .ok d ↔ d < phi ∧ d * e % phi = 1 := by
  refine ⟨modularInverse_ok hphi, fun ⟨hd, hinv⟩ => ?_⟩
  obtain ⟨d', hok, hd', hinv'⟩ := modularInverse_of_coprime hphi hgcd
  rw [hok, inverse_unique hgcd hd hd' (hinv.trans hinv'.symm)]

/-- Settles O53: the two early exits, and the unique inverse of a unit. -/
theorem modularInverseContract : Obligations.ModularInverseContract := fun _ _ =>
  ⟨fun hphi => if_pos hphi, modularInverse_eq_ok_iff, fun hphi hgcd => modularInverse_eq_error hphi (.inr hgcd),
    fun hphi => modularInverse_eq_error (by omega) (.inl hphi)⟩

/-! The candidates of `random_prime` (R211). -/

theorem bitlen_eq_succ {n k : Nat} (hle : 2 ^ k ≤ n) (hlt : n < 2 ^ (k + 1)) : bitlen n = k + 1 := by
  have hn : n ≠ 0 := (Nat.lt_of_lt_of_le (Nat.two_pow_pos k) hle).ne'
  rw [bitlen, if_neg hn, (Nat.log2_eq_iff hn).mpr ⟨hle, hlt⟩]

theorem two_pow_le_candidate (k raw : Nat) : 2 ^ k ≤ candidate (k + 1) raw :=
  Nat.right_le_or.trans Nat.left_le_or

theorem candidate_lt_two_pow (k raw : Nat) : candidate (k + 1) raw < 2 ^ (k + 1) :=
  Nat.or_lt_two_pow
    (Nat.or_lt_two_pow (Nat.mod_lt raw (Nat.two_pow_pos _)) (Nat.pow_lt_pow_right Nat.one_lt_two k.lt_succ_self))
    (Nat.one_lt_two_pow k.succ_ne_zero)

theorem candidate_odd (bits raw : Nat) : candidate bits raw % 2 = 1 := Nat.or_mod_two_eq_one.mpr (.inr rfl)

/-- Settles O54: the bit set at the top gives the length, the bit set at the bottom the oddness. -/
theorem candidateHasItsBitLength : Obligations.CandidateHasItsBitLength
  | k + 1, raw, _ => ⟨bitlen_eq_succ (two_pow_le_candidate k raw) (candidate_lt_two_pow k raw), candidate_odd _ raw⟩

/-! The exponents of a key pair (R220). -/

/-- The scan ends at a coprime number if it has the fuel to come to one. -/
theorem exponentScan_coprime {phi : Nat} : ∀ {fuel e k : Nat}, k < fuel → Nat.gcd (e + 2 * k) phi = 1 →
    Nat.gcd (exponentScan phi fuel e) phi = 1
  | 0, _, k, hk, _ => absurd hk k.not_lt_zero
  | fuel + 1, e, k, hk, hgcd => by
    rw [exponentScan, hostGcd_eq_gcd]
    split
    next he => exact he
    next he =>
      cases k with
      | zero => exact absurd hgcd he
      | succ k =>
        refine exponentScan_coprime (Nat.lt_of_succ_lt_succ hk) ?_
        rwa [show e + 2 + 2 * k = e + 2 * (k + 1) by omega]

/-- `2 * phi + 1` is among the candidates of the scan, and it is coprime with `phi` whatever `phi` is. -/
theorem chooseExponent_coprime {phi : Nat} (hphi : 0 < phi) : Nat.gcd (chooseExponent phi) phi = 1 := by
  rw [chooseExponent, hostGcd_eq_gcd]
  split
  next h => exact h
  next =>
    refine exponentScan_coprime (k := phi - 1) (by omega) ?_
    rw [show 3 + 2 * (phi - 1) = 1 + 2 * phi by omega, Nat.gcd_add_mul_right_left, Nat.gcd_one_left]

theorem keypairOf_of_inverse {p q d : Nat}
    (h : modularInverse (chooseExponent ((p - 1) * (q - 1))) ((p - 1) * (q - 1)) = .ok d) :
    keypairOf p q = .ok (⟨p * q, chooseExponent ((p - 1) * (q - 1))⟩, ⟨p * q, d⟩) := by
  simp only [keypairOf, h]

/-- Settles O55: the exponent found is coprime with `phi`, so its inverse exists. -/
theorem keyExponentsAreInverse : Obligations.KeyExponentsAreInverse := by
  intro p q hphi
  have hgcd := chooseExponent_coprime (Nat.zero_lt_of_lt hphi)
  obtain ⟨d, hok, -, hinv⟩ := modularInverse_of_coprime hphi hgcd
  exact ⟨_, d, keypairOf_of_inverse hok, hgcd, hinv⟩

/-! How `encrypt` and `decrypt` end (R225, R235). -/

theorem hostEncrypt_of_neg (w : Nat) (pub : PublicKey) {m : Int} (hm : m < 0) : hostEncrypt w pub m = .error .range :=
  if_pos hm

theorem hostEncrypt_of_le {w m : Nat} {pub : PublicKey} (hle : pub.n ≤ m) (hm : m < 2 ^ w) (he : pub.e < 2 ^ w) :
    hostEncrypt w pub m = .error .range := by
  have hfits : (m : Int) < 2 ^ w := by exact_mod_cast hm
  rw [hostEncrypt, if_neg (by omega), if_pos ⟨hfits, he, hle.trans_lt hm⟩, Int.toNat_natCast, modexpCOut, if_pos hle,
    fromOutcome]

theorem hostEncrypt_of_not_fits {w m : Nat} (pub : PublicKey) (hm : 2 ^ w ≤ m) :
    hostEncrypt w pub m = .error .outsideDomain := by
  have hfits : ¬ (m : Int) < 2 ^ w := by exact_mod_cast hm.not_gt
  rw [hostEncrypt, if_neg (by omega), if_neg fun h => hfits h.1]

theorem hostDecrypt_of_eq_zero {w c : Nat} {priv : PrivateKey} (hc : c < 2 ^ w) (hd : priv.d < 2 ^ w)
    (hn : priv.n < 2 ^ w) (hzero : priv.n = 0) : hostDecrypt w priv c = .error (.command .modulus) := by
  rw [hostDecrypt, if_pos ⟨hc, hd, hn⟩, modexpOut, if_pos hzero]
  rfl

/-- Settles O59: an outcome for each place of the message, and for each case of the modulus. -/
theorem encryptAndDecryptOutcomes : Obligations.EncryptAndDecryptOutcomes :=
  ⟨fun w pub _ => hostEncrypt_of_neg w pub,
    fun _ pub _ hn he => ⟨fun hm => hostEncrypt_of_lt hm hn he, fun hle hm => hostEncrypt_of_le hle hm he,
      hostEncrypt_of_not_fits pub⟩,
    fun _ _ _ hn hd hc => ⟨fun hpos => hostDecrypt_of_ne_zero hc hd hn (Nat.pos_iff_ne_zero.mp hpos),
      hostDecrypt_of_eq_zero hc hd hn⟩⟩

end Sys2Proof.Machine
end

section
/-! PROOFS. The text codec (43_host_procedures.md R230, R231): decoding undoes UTF-8 encoding, and the bytes of the
value of a byte sequence are that sequence, if it does not begin with 0. -/

namespace Sys2Proof.Machine

/-! UTF-8, character by character: the bits of a lead byte and of the bytes that continue it make up the value. -/

theorem toNat_scalar (c : Char) : (c.toNat < 0xD800 ∨ 0xE000 ≤ c.toNat) ∧ c.toNat < 0x110000 := by
  obtain h | ⟨h, hlt⟩ : c.toNat < 0xD800 ∨ 0xDFFF < c.toNat ∧ c.toNat < 0x110000 := c.valid <;> omega

theorem scalar_toNat {c : Char} {least : Nat} (h : least ≤ c.toNat) : scalar least c.toNat = some c := by
  rw [scalar, if_pos ⟨h, toNat_scalar c⟩, Char.ofNat_toNat]

theorem continues_add {t : Nat} (ht : t < 0x40) : continues (0x80 + t) = true := by
  rw [continues, Bool.and_eq_true, decide_eq_true_eq, decide_eq_true_eq]
  omega

theorem utf8Next_one {b : Nat} (hb : b < 0x80) (rest : List Nat) :
    utf8Next (b :: rest) = (scalar 0 b).map (·, rest) := by
  simp only [utf8Next, if_pos hb]

section
variable {h t₁ t₂ t₃ : Nat} (ht₁ : t₁ < 0x40) (ht₂ : t₂ < 0x40) (ht₃ : t₃ < 0x40) (rest : List Nat)
include ht₁

theorem utf8Next_two (hh : h < 0x20) :
    utf8Next ((0xC0 + h) :: (0x80 + t₁) :: rest) = (scalar 0x80 (h * 0x40 + t₁)).map (·, rest) := by
  have hlead : 0xC0 + h < 0xE0 := by omega
  have hascii : ¬ 0xC0 + h < 0x80 := by omega
  simp [utf8Next, hascii, hlead, continues_add ht₁]

include ht₂

theorem utf8Next_three (hh : h < 0x10) :
    utf8Next ((0xE0 + h) :: (0x80 + t₁) :: (0x80 + t₂) :: rest) =
      (scalar 0x800 ((h * 0x40 + t₁) * 0x40 + t₂)).map (·, rest) := by
  have hlead : 0xE0 + h < 0xF0 := by omega
  have hascii : ¬ 0xE0 + h < 0x80 := by omega
  have htwo : ¬ 0xE0 + h < 0xE0 := by omega
  simp [utf8Next, hascii, htwo, hlead, continues_add ht₁, continues_add ht₂]

include ht₃

theorem utf8Next_four (hh : h < 0x08) :
    utf8Next ((0xF0 + h) :: (0x80 + t₁) :: (0x80 + t₂) :: (0x80 + t₃) :: rest) =
      (scalar 0x10000 (((h * 0x40 + t₁) * 0x40 + t₂) * 0x40 + t₃)).map (·, rest) := by
  have hlead : 0xF0 + h < 0xF8 := by omega
  have hascii : ¬ 0xF0 + h < 0x80 := by omega
  have htwo : ¬ 0xF0 + h < 0xE0 := by omega
  have hthree : ¬ 0xF0 + h < 0xF0 := by omega
  simp [utf8Next, hascii, htwo, hthree, hlead, continues_add ht₁, continues_add ht₂, continues_add ht₃]

end

theorem utf8Next_utf8Char (c : Char) (rest : List Nat) : utf8Next (utf8Char c ++ rest) = some (c, rest) := by
  obtain ⟨-, hlt⟩ := toNat_scalar c
  have hmod (v : Nat) : v % 0x40 < 0x40 := Nat.mod_lt v (by decide)
  have hbits6 : c.toNat / 0x40 * 0x40 + c.toNat % 0x40 = c.toNat := Nat.div_add_mod' _ _
  have hbits12 : c.toNat / 0x1000 * 0x40 + c.toNat / 0x40 % 0x40 = c.toNat / 0x40 := by omega
  have hbits18 : c.toNat / 0x40000 * 0x40 + c.toNat / 0x1000 % 0x40 = c.toNat / 0x1000 := by omega
  simp only [utf8Char]
  split_ifs with hone htwo hthree <;> simp only [List.cons_append, List.nil_append]
  · rw [utf8Next_one hone, scalar_toNat (Nat.zero_le _), Option.map_some]
  · rw [utf8Next_two (hmod _) _ (by omega), hbits6, scalar_toNat (Nat.le_of_not_lt hone), Option.map_some]
  · rw [utf8Next_three (hmod _) (hmod _) _ (by omega), hbits12, hbits6, scalar_toNat (Nat.le_of_not_lt htwo),
      Option.map_some]
  · rw [utf8Next_four (hmod _) (hmod _) (hmod _) _ (by omega), hbits18, hbits12, hbits6,
      scalar_toNat (Nat.le_of_not_lt hthree), Option.map_some]

theorem utf8Encode_cons (c : Char) (rest : List Char) : utf8Encode (c :: rest) = utf8Char c ++ utf8Encode rest :=
  List.flatMap_cons

/-- Every round of the loop takes one character off. -/
theorem utf8DecodeLoop_utf8Encode : ∀ {fuel : Nat} {text : List Char}, text.length ≤ fuel →
    utf8DecodeLoop fuel (utf8Encode text) = some text
  | _, [], _ => by rw [utf8Encode, List.flatMap_nil, utf8DecodeLoop]
  | 0, _ :: _, h => absurd h (Nat.not_succ_le_zero _)
  | fuel + 1, c :: rest, h => by
    have hnext := utf8Next_utf8Char c (utf8Encode rest)
    have hrest := utf8DecodeLoop_utf8Encode (Nat.le_of_succ_le_succ h)
    rw [utf8Encode_cons, utf8DecodeLoop]
    · simp only [hnext, hrest, Option.map_some]
    · intro hnil
      rw [hnil] at hnext
      cases hnext

theorem utf8Char_ne_nil (c : Char) : utf8Char c ≠ [] := by
  simp only [utf8Char]
  split_ifs <;> exact List.cons_ne_nil _ _

theorem length_le_length_utf8Encode : ∀ text : List Char, text.length ≤ (utf8Encode text).length
  | [] => Nat.zero_le _
  | c :: rest => by
    have hpos := List.length_pos_iff.mpr (utf8Char_ne_nil c)
    have hrest := length_le_length_utf8Encode rest
    rw [utf8Encode_cons, List.length_append, List.length_cons]
    omega

theorem utf8Decode_utf8Encode (text : List Char) : utf8Decode (utf8Encode text) = some text :=
  utf8DecodeLoop_utf8Encode (length_le_length_utf8Encode text)

theorem lt_of_mem_utf8Encode {text : List Char} {b : Nat} (h : b ∈ utf8Encode text) : b < 256 := by
  obtain ⟨c, -, hb⟩ := List.mem_flatMap.mp h
  obtain ⟨-, hlt⟩ := toNat_scalar c
  simp only [utf8Char] at hb
  split_ifs at hb <;> simp only [List.mem_cons, List.not_mem_nil, or_false] at hb <;> omega

/-- Only U+0000 is encoded with a byte 0 first. -/
theorem exists_utf8Char_eq_cons {c : Char} (hc : c.toNat ≠ 0) : ∃ b bs, utf8Char c = b :: bs ∧ b ≠ 0 := by
  simp only [utf8Char]
  split_ifs
  · exact ⟨_, _, rfl, hc⟩
  · exact ⟨_, _, rfl, by omega⟩
  · exact ⟨_, _, rfl, by omega⟩
  · exact ⟨_, _, rfl, by omega⟩

/-! Big-endian values and their bytes (R230, R231). -/

theorem bigEndian_eq_ofDigits (bytes : List Nat) : bigEndian bytes = Nat.ofDigits 256 bytes.reverse := by
  rw [bigEndian, Nat.ofDigits_eq_foldr, List.foldr_reverse]
  simp only [Nat.cast_id, Nat.add_comm, Nat.mul_comm]

/-- The byte count of R231 is the number of digits in base 256. -/
theorem byteCount_eq_length_digits {n : Nat} (hn : n ≠ 0) :
    max 1 ((bitlen n + 7) / 8) = (Nat.digits 256 n).length := by
  rw [Nat.length_digits _ _ (by decide) hn, show 256 = 2 ^ 8 from rfl, Nat.log_pow_left, bitlen, if_neg hn,
    Nat.log2_eq_log_two]
  omega

theorem bytesOf_eq_reverse_digits {n : Nat} (hn : n ≠ 0) : bytesOf n = (Nat.digits 256 n).reverse := by
  refine List.ext_getElem ?_ fun i hi hi' => ?_
  · rw [bytesOf, List.length_map, List.length_range, byteCount_eq_length_digits hn, List.length_reverse]
  · rw [List.getElem_reverse, ← List.getD_eq_getElem (Nat.digits 256 n) 0, Nat.getD_digits _ _ (by decide)]
    simp only [bytesOf, List.getElem_map, List.getElem_range, byteCount_eq_length_digits hn]

theorem bytesOf_bigEndian {b : Nat} {bs : List Nat} (hb : b ≠ 0) (hlt : ∀ x ∈ b :: bs, x < 256) :
    bytesOf (bigEndian (b :: bs)) = b :: bs := by
  have hdigits : Nat.digits 256 (bigEndian (b :: bs)) = (b :: bs).reverse := by
    rw [bigEndian_eq_ofDigits]
    refine Nat.digits_ofDigits 256 (by decide) _ (fun x hx => hlt x (List.mem_reverse.mp hx)) fun _ => ?_
    rwa [List.getLast_reverse]
  have hne : bigEndian (b :: bs) ≠ 0 := by
    rw [← Nat.digits_ne_nil_iff_ne_zero (b := 256), hdigits]
    exact List.reverse_ne_nil_iff.mpr (List.cons_ne_nil b bs)
  rw [bytesOf_eq_reverse_digits hne, hdigits, List.reverse_reverse]

/-- Settles O57: the first byte is not 0, so the bytes come back, and they decode to the text. -/
theorem textRoundTrip : Obligations.TextRoundTrip := by
  intro c rest hc
  obtain ⟨b, bs, hcons, hb⟩ := exists_utf8Char_eq_cons hc
  have hencode : utf8Encode (c :: rest) = b :: (bs ++ utf8Encode rest) := by
    rw [utf8Encode_cons, hcons, List.cons_append]
  have hbytes : bytesOf (textToInt (c :: rest)) = utf8Encode (c :: rest) := by
    rw [textToInt, hencode]
    exact bytesOf_bigEndian hb fun x hx => lt_of_mem_utf8Encode (hencode ▸ hx)
  rw [intToText, hbytes, utf8Decode_utf8Encode]

end Sys2Proof.Machine
end

section
/-! PROOFS. A completion that raises ERR is the block's one exception entry (60_exceptions.md R244), with a code from 1
to 4 (R241). -/

namespace Sys2Proof.Machine

theorem code_bounds (c : ErrCode) : 1 ≤ c.code.toNat ∧ c.code.toNat ≤ 4 := by cases c <;> decide

/-- The exception entry written out: the registers it does not name keep their values (60_exceptions.md R244). -/
theorem completeError_eq (s : State) (c : ErrCode) : s.completeError c = { s with
    status := { s.status with busy := false, done := true, err := true, errCode := c.code },
    scratch := s.freeScratch, env := { s.env with fills := s.env.fills + 1 } } := rfl

/-- A command that ends with an error has used no draw, so its completion is the exception entry alone. -/
theorem completion_of_outcomeOf_err {i : Instr} {s : State} {c : ErrCode} (h : (outcomeOf i s).1 = .err c) :
    (s.takeDraws (outcomeOf i s).2).completion (outcomeOf i s).1 = s.completeError c := by
  have hexec := exec_eq_completion s (outcomeOf_err h)
  rw [exec_eq, h] at hexec
  rw [h]
  exact Host.Outcome.next.inj hexec

/-- Only an error outcome sets ERR, so a step that raises it is the exception entry (10_state.md R25, R40). -/
theorem engineStep_raises_err {s t : State} (h : engineStep s = .next t) (hs : s.status.err = false)
    (ht : t.status.err = true) : ∃ c, t = s.completeError c := by
  obtain ⟨i, -, heq⟩ | ⟨-, heq⟩ := engineStep_cases s <;> rw [heq] at h <;> cases h
  · obtain ⟨hkept, -⟩ | ⟨c, hc⟩ := completion_err_eq_or (s.takeDraws (outcomeOf i s).2) (outcomeOf i s).1
    · rw [hkept, takeDraws_status, hs] at ht
      cases ht
    · exact ⟨c, completion_of_outcomeOf_err hc⟩
  · exact ⟨.opcode, rfl⟩

/-- Settles O35: a step that raises ERR is the exception entry, whose DONE raises `irq` if IE is set. -/
theorem errorsHaveNoPartialEffect : Obligations.ErrorsHaveNoPartialEffect := by
  intro s t h hs ht
  obtain ⟨c, rfl⟩ := engineStep_raises_err h hs ht
  obtain ⟨hpos, hle⟩ := code_bounds c
  have hirq : (s.completeError c).irq = s.ctrl.ie := completion_irq s (.err c)
  exact ⟨c.code, hpos, hle, completeError_eq s c, fun hie => hirq.trans hie⟩

end Sys2Proof.Machine
end

section
/-! PROOFS. Reset, by the host's write or by the reset input: one next state from every state (70_reset_and_hazards.md R270
to R272). -/

namespace Sys2Proof.Machine

/-- A reset block written out (70_reset_and_hazards.md R270, R272): of the state before, only WIDTH and the environment count. -/
theorem resetBlock_eq (s : State) : s.resetBlock = { State.resetOf s.width with
    scratch := s.freeScratch, env := { s.env with fills := s.env.fills + 1 } } := rfl

theorem hostTurn_of_reset {s : State} {rest : List Event} (h : s.env.schedule = .reset :: rest) :
    s.hostTurn = s.popEvent.resetBlock := by
  rw [State.hostTurn, h]

/-- Settles O5: a write that sets bit 1 of CTRL resets the block in every state, busy or not (`ctrlWrite`), and the reset
input is a turn of the host; the free scratch values do not depend on the schedule. -/
theorem resetFromEveryState : Obligations.ResetFromEveryState := by
  obtain ⟨hsoft, -⟩ := ctrlWrite
  refine ⟨fun s v hv => ?_, fun s rest h => ?_⟩
  · obtain ⟨hwrite, -⟩ := hsoft s v hv
    rw [hwrite, resetBlock_eq]
  · rw [step_eq_hostTurn h nofun nofun, hostTurn_of_reset h, popEvent_of_schedule h]
    exact congrArg Host.Outcome.next (resetBlock_eq _)

end Sys2Proof.Machine
end
